-- ==== Sys2Proof/Word.lean ====
section
/-! DEFINITION. The widths the spec fixes (spec/00_scope.md R6) and the three data spaces (spec/20_memory.md R60). -/

namespace Sys2Proof

/-- A control register and a command word: 32 bits (R6 (c), R21). -/
abbrev Word := BitVec 32

/-- A sample, a colour component, one addressable unit of a buffer: 8 bits (R6 (a), (b)). -/
abbrev Byte := BitVec 8

/-- The three disjoint data address spaces (R60). -/
inductive Space where
  | raw
  | plane
  | rgb
deriving DecidableEq, Repr

end Sys2Proof
end

