-- ==== Sys2Proof/Syntax.lean ====
section
/-! DEFINITION. The instructions: one constructor for each row of spec/opcode_table.json. -/

namespace Sys2Proof

/-- The eleven rows of the opcode table: four command words (spec/30_encoding.md R91) and seven per-pixel step
kinds (R94, R95). Their other operands are the configuration registers and the buffers (R90). -/
inductive Instr where
  /-- `UNPACK` (spec/40_commands.md R122). -/
  | unpack
  /-- `DEMOSAIC` (R123). -/
  | demosaic
  /-- `CONVERT ctype`: `ctype` is the argument field `v[15:8]`, a number below 256 (R92, R98, R124). -/
  | convert (ctype : Nat)
  /-- `SRST` (R125). -/
  | srst
  /-- `UNPK.COPY` (spec/41_unpack_steps.md R152). -/
  | unpkCopy
  /-- `UNPK.ONE` (R153). -/
  | unpkOne
  /-- `UNPK.TWO` (R154). -/
  | unpkTwo
  /-- `DM.OO` (spec/42_demosaic_steps.md R172). -/
  | dmOO
  /-- `DM.OE` (R173). -/
  | dmOE
  /-- `DM.EO` (R174). -/
  | dmEO
  /-- `DM.EE` (R175). -/
  | dmEE
deriving DecidableEq, Repr

end Sys2Proof
end

