-- ==== Sys2Proof/WellFormed.lean ====
section
/-! DEFINITION. Which terms of `Instr` some encoding stands for. -/

namespace Sys2Proof

/-- A term is well-formed when each of its fields fits its encoding. Only `CONVERT c` has a field, and its
range is "`0 <= c <= 255`" (spec/30_encoding.md R98; `ARG` is 8 bits, R90). -/
def Instr.wellFormed : Instr → Bool
  | .convert c => decide (c < 256)
  | .unpack | .demosaic | .srst => true
  | .unpkCopy | .unpkOne | .unpkTwo => true
  | .dmOO | .dmOE | .dmEO | .dmEE => true

end Sys2Proof
end

