-- ==== Sys2Proof/Decode.lean ====
section
/-! DEFINITION. Decoding of command words and step selectors, and the encoder (spec/30_encoding.md R90 to R97). -/

namespace Sys2Proof

/-- What the hardware decodes. A command word is presented to `CMD`; a step selector is computed from the
configuration and `PIX`, and the phase says which of the two selector formats it has (R90, R94, R95). -/
inductive Encoding where
  /-- Format `CMDW`: the word written to `CMD`. -/
  | cmdw (v : Word)
  /-- Format `USTEP`: the bits `es`, `e` the high one. -/
  | ustep (es : BitVec 2)
  /-- Format `DSTEP`: the bits `lr`, `l` the high one. -/
  | dstep (lr : BitVec 2)
deriving DecidableEq, Repr

/-- What no row of the table stands for. -/
inductive Reject where
  /-- An illegal command word (R93). The machine presents it as R126 says. -/
  | illegalCommand (v : Word)
  /-- The selector `es = 11`, which cannot occur (R94). -/
  | noStepKind
deriving DecidableEq, Repr

/-- The outcome of decoding: an instruction, or a rejection by name. -/
inductive Decoded where
  | instr (i : Instr)
  | reject (r : Reject)
deriving DecidableEq, Repr

/-- `ARG`, bits 15:8 of a command word, "as the unsigned 8-bit value `v[15:8]`" (R90). -/
def cmdArg (v : Word) : Nat := (v.extractLsb' 8 8).toNat

/-- A command word, by the `match` and `mask` of each row of R91, in the order of
spec/40_commands.md R120. -/
def decodeCommand (v : Word) : Decoded :=
  if v = 0x00000004#32 then .instr .srst
  else if v = 0x00000001#32 then .instr .unpack
  else if v = 0x00000002#32 then .instr .demosaic
  else if v &&& 0xFFFF00FF#32 = 0x00000003#32 then .instr (.convert (cmdArg v))
  else .reject (.illegalCommand v)

/-- The table of R94. -/
def decodeUstep (es : BitVec 2) : Decoded :=
  if es = 0b10#2 then .instr .unpkCopy
  else if es = 0b00#2 then .instr .unpkOne
  else if es = 0b01#2 then .instr .unpkTwo
  else .reject .noStepKind

/-- The table of R95. All four values name a kind. -/
def decodeDstep (lr : BitVec 2) : Decoded :=
  if lr = 0b11#2 then .instr .dmOO
  else if lr = 0b10#2 then .instr .dmOE
  else if lr = 0b01#2 then .instr .dmEO
  else .instr .dmEE

/-- Decoding is total and depends on no register (R97). -/
def decode : Encoding → Decoded
  | .cmdw v => decodeCommand v
  | .ustep es => decodeUstep es
  | .dstep lr => decodeDstep lr

/-- The encoding of each instruction, by the tables of R91, R94 and R95. -/
def encode : Instr → Encoding
  | .unpack => .cmdw 0x00000001#32
  | .demosaic => .cmdw 0x00000002#32
  | .convert c => .cmdw (0x00000003#32 ||| (BitVec.ofNat 32 c <<< 8))
  | .srst => .cmdw 0x00000004#32
  | .unpkCopy => .ustep 0b10#2
  | .unpkOne => .ustep 0b00#2
  | .unpkTwo => .ustep 0b01#2
  | .dmOO => .dstep 0b11#2
  | .dmOE => .dstep 0b10#2
  | .dmEO => .dstep 0b01#2
  | .dmEE => .dstep 0b00#2

/-- The command word of an instruction: the `v` that a start fault records (spec/60_exceptions.md R232 to
R235). A step kind has none; 0 stands there and nothing reads it. -/
def commandWord (i : Instr) : Word :=
  match encode i with
  | .cmdw v => v
  | .ustep _ => 0#32
  | .dstep _ => 0#32

/-- The encoding that the opcode table's number `w` of `nbits` bits stands for. A 32-bit number is a command
word. The table numbers both selector formats from 0 to 3, so the number alone does not say which format is
meant: 0, 1, 2 are read as `USTEP`, 3 (which no `USTEP` row has) as `DSTEP`, and 4 to 7 as `DSTEP` of the low
two bits. DESIGN CHOICE, notes/assumptions/14.md. -/
def tableEncoding (nbits w : Nat) : Option Encoding :=
  if nbits = 32 then some (.cmdw (BitVec.ofNat 32 w))
  else if nbits ≤ 8 then
    if w < 3 then some (.ustep (BitVec.ofNat 2 w))
    else if w < 8 then some (.dstep (BitVec.ofNat 2 w))
    else none
  else none

/-- The instruction of a decoding, if there is one. -/
def Decoded.instr? : Decoded → Option Instr
  | .instr i => some i
  | .reject _ => none

/-- The instruction the decoder reads from the opcode table's number `w` of `nbits` bits. -/
def decodeTableWord (nbits w : Nat) : Option Instr :=
  match tableEncoding nbits w with
  | some e => (decode e).instr?
  | none => none

end Sys2Proof
end

