-- ==== Sys2Proof/Config.lean ====
section
/-! DEFINITION. What one implementation fixes (spec/00_scope.md R5) and the free values of the model: a byte nothing has
written (spec/10_state.md R45), a file size its header field cannot hold (43_host_container.md R203), and a byte count that
`RAW_LEN` cannot hold (R212). -/

namespace Sys2Proof.Config

/-- FREE VALUE. The byte that index `k` of space `sp` holds from power-up until something writes it:
"some one byte value, the same at every read until the byte is written, but not known" (R45, U4). It has no
body, so nothing can be proved of it. notes/assumptions/1.md. -/
opaque powerUpByte (sp : Space) (k : Nat) : Byte

/-- FREE VALUE. What the 4-byte field `bfSize` (or `biSizeImage`) holds where the size is 2^32 or more: `54 + RGBLEN`
does so for the largest frames of a machine whose `RGB_CAP` is 2^32, and the spec states no bytes for it (R201 to R203).
DESIGN CHOICE, notes/assumptions/27.md. -/
opaque oversizeField (size : Nat) : Word

/-- FREE VALUE. The word that step 5 of the driver sequence, `WR RAW_LEN, n`, writes where `n` is 2^32 or more: a machine
whose `RAW_CAP` is 2^32 can take 2^32 bytes of a larger frame, and the spec does not say what is written then (R212).
DESIGN CHOICE, notes/assumptions/29.md. -/
opaque oversizeRawLen (n : Nat) : Word

/-- The capacities in bytes of the three buffer memories: `RAW_CAP`, `PLANE_CAP`, `RGB_CAP` (R5). -/
structure Capacities where
  raw : Nat
  plane : Nat
  rgb : Nat
deriving DecidableEq, Repr

/-- "Each is a natural number with `1 <= cap <= 2^32`" (R5). -/
abbrev capLegal (cap : Nat) : Prop := 1 ≤ cap ∧ cap ≤ 2 ^ 32

/-- All three capacities are in the range of R5. -/
abbrev Capacities.legal (c : Capacities) : Prop :=
  capLegal c.raw ∧ capLegal c.plane ∧ capLegal c.rgb

/-- DESIGN CHOICE (notes/assumptions/3.md): the capacities of the machine that `State.reset` describes. The
spec gives no default; this is the largest machine R5 allows. -/
def capsAtReset : Capacities := ⟨2 ^ 32, 2 ^ 32, 2 ^ 32⟩

/-- `LEGAL_DEPTHS` (R6 (d)). -/
def legalDepths : List Nat := [1, 2, 3, 4, 5, 6, 7, 8, 9, 10, 12, 16]

end Sys2Proof.Config
end

