-- ==== Sys2Proof/Machine/State.lean ====
section
/-! DEFINITION. The state of the BDU (spec/10_state.md), the reasons a step of the model can stop, and the
state after reset. -/

namespace Sys2Proof.Machine

/-- Why the model stops with a fault. None of these is a fault of the hardware: the hardware's five faults
(spec/60_exceptions.md R231) are next states in `HALT`. -/
inductive Fault where
  /-- Raised by a read or write of the block at an index at or above the capacity of the space, which names no
  byte (spec/20_memory.md R61, R75). Safe: no state that meets `Safe.Invariant` raises it. notes/assumptions/10.md. -/
  | noSuchByte (sp : Space) (k : Nat)
  /-- Raised by the sequencer if the selector `es` were 11, which cannot occur (spec/30_encoding.md R94).
  Safe: no state at all raises it. notes/assumptions/11.md. -/
  | noStepKind
deriving DecidableEq, Repr

/-- Why the model refuses a step. -/
inductive Refusal where
  /-- Raised by `exec` for an instruction with no meaning yet. Safe: the machine goes on. No arm uses it. -/
  | notModelled (mnemonic : String)
  /-- Raised by a host access to a buffer byte while the block owns the buffers; the spec calls it undefined and
  says a model refuses the trace (spec/20_memory.md R70, 93_implementation_defined.md U1). Safe.
  notes/assumptions/8.md. -/
  | hostBufferWhileBusy (sp : Space) (k : Nat)
  /-- Raised by a host access to a buffer index at or above the capacity; what a platform does with it is
  outside the BDU (spec/20_memory.md R69, 93_implementation_defined.md U7). Safe. notes/assumptions/9.md. -/
  | hostBufferPastCapacity (sp : Space) (k : Nat)
deriving DecidableEq, Repr

/-- `PHASE`, with the encodings 0 to 3 in this order (spec/10_state.md R24, R35). -/
inductive Phase where
  | idle
  | unpack
  | demosaic
  | halt
deriving DecidableEq, Repr

/-- The five fault codes, 1 to 5 in this order (spec/60_exceptions.md R231). -/
inductive FaultCode where
  | argCmd
  | argCfg
  | alloc
  | shortRead
  | bounds
deriving DecidableEq, Repr

/-- A data space as the list of the bytes that something has written since power-up, in strictly rising order
of their indices. An index that is not listed is one nothing has written (notes/assumptions/2.md). -/
abbrev Memory := List Host.Cell

/-- One access of the host, or of the outside world (spec/10_state.md R21, 20_memory.md R69). -/
inductive HostAccess where
  /-- `RegRead(n)`. -/
  | regRead (n : Nat)
  /-- `RegWrite(n, v)`; with `n = 1` it presents the command word `v`. -/
  | regWrite (n : Nat) (v : Word)
  /-- `BufRead(S, k)`. -/
  | bufRead (sp : Space) (k : Nat)
  /-- `BufWrite(S, k, b)`. -/
  | bufWrite (sp : Space) (k : Nat) (b : Byte)
  /-- The reset input is asserted and released (spec/70_reset_and_hazards.md R260). -/
  | hardReset
  /-- The level of the output `irq` is looked at (spec/60_exceptions.md R243). -/
  | sampleIrq
deriving DecidableEq, Repr

/-- Who takes the next step: the interleaving of the two agents, written out (spec/00_scope.md R7). -/
inductive Turn where
  /-- The host makes one access. -/
  | host (a : HostAccess)
  /-- The pseudo-line `WAIT` (spec/30_encoding.md R99): read `STATUS`; while it shows `BUSY`, let the block take
  a step and read again. -/
  | wait
  /-- The block takes its next step, if it has one. -/
  | block
deriving DecidableEq, Repr

/-- What one read of the host returned. -/
inductive HostReply where
  | reg (n : Nat) (v : Word)
  | buf (sp : Space) (k : Nat) (b : Byte)
  | irq (level : Bool)
deriving DecidableEq, Repr

/-- The complete state of the BDU (spec/10_state.md R20), and three fields of the model's own. -/
structure State where
  /-- `CTRL.IE` (R22). -/
  ie : Bool
  /-- `WIDTH`, `W` (R25). -/
  width : BitVec 16
  /-- `HEIGHT`, `H` (R26). -/
  height : BitVec 16
  /-- `BITDEPTH`, `D` (R27). -/
  bitDepth : BitVec 5
  /-- `PATTERN` (R28). -/
  pattern : BitVec 2
  /-- `RAW_LEN` (R29). -/
  rawLen : Word
  /-- `PHASE` (R35). -/
  phase : Phase
  /-- `PIX` (R30). -/
  pix : Word
  /-- `CHAIN` (R36). -/
  chain : Bool
  /-- `DONE` (R37). -/
  done : Bool
  /-- `PATNOP` (R37). -/
  patnop : Bool
  /-- `ECODE` (R37); `none` is code 0. -/
  ecode : Option FaultCode
  /-- `FPIX` (R31). -/
  fpix : Word
  /-- `FADDR` (R32). -/
  faddr : Word
  /-- The space `RAW` (R40). -/
  raw : Memory
  /-- The space `PLANE` (R41). -/
  plane : Memory
  /-- The space `RGB` (R42). -/
  rgb : Memory
  /-- MODEL'S OWN: the implementation parameters, which no step changes (spec/00_scope.md R5,
  notes/assumptions/3.md). -/
  caps : Config.Capacities
  /-- MODEL'S OWN: the turns still to come (notes/assumptions/4.md). When it is empty the block has the turn. -/
  agenda : List Turn
  /-- MODEL'S OWN: what the host's reads returned, newest first (notes/assumptions/5.md). -/
  replies : List HostReply
deriving DecidableEq, Repr

/-- The machine after power-up and reset, with the capacities `c`: the register values of spec/10_state.md R44,
no buffer byte written (R45), no turn waiting. -/
def State.resetWith (c : Config.Capacities) : State where
  ie := false
  width := 0#16
  height := 0#16
  bitDepth := 10#5
  pattern := 0#2
  rawLen := 0#32
  phase := .idle
  pix := 0#32
  chain := false
  done := false
  patnop := false
  ecode := none
  fpix := 0#32
  faddr := 0#32
  raw := []
  plane := []
  rgb := []
  caps := c
  agenda := []
  replies := []

/-- The machine right after reset (R44, R45), with the capacities the model chose (notes/assumptions/3.md). -/
def State.reset : State := State.resetWith Config.capsAtReset

/-- The three outcomes of a step of this machine. -/
abbrev Result := Host.Outcome State Fault Refusal

end Sys2Proof.Machine
end

