-- ==== Sys2Proof/Machine/Flags.lean ====
section
/-! DEFINITION. The flags and the words assembled from them: `STATUS` (spec/10_state.md R24), `irq` (R43), and the
setting and clearing of `DONE` and `PATNOP` (R37). -/

namespace Sys2Proof.Machine

/-- The 2-bit encoding of `PHASE` (R24). -/
def Phase.code : Phase → BitVec 2
  | .idle => 0#2
  | .unpack => 1#2
  | .demosaic => 2#2
  | .halt => 3#2

/-- The 4-bit fault code (spec/60_exceptions.md R231). -/
def FaultCode.code : FaultCode → BitVec 4
  | .argCmd => 1#4
  | .argCfg => 2#4
  | .alloc => 3#4
  | .shortRead => 4#4
  | .bounds => 5#4

/-- `ECODE` as its 4 bits; 0 when no fault was taken since reset (R37). -/
def ecodeBits : Option FaultCode → BitVec 4
  | none => 0#4
  | some f => f.code

/-- `BUSY`: 1 when `PHASE` is `UNPACK` or `DEMOSAIC` (R24). -/
def State.busy (s : State) : Bool := s.phase = .unpack || s.phase = .demosaic

/-- `ERR`: 1 when `PHASE` is `HALT` (R24). -/
def State.err (s : State) : Bool := s.phase = .halt

/-- The `STATUS` word, field by field from bit 31 down to bit 0 (R24). -/
def State.statusWord (s : State) : Word :=
  0#20 ++ ecodeBits s.ecode ++ 0#2 ++ s.phase.code ++ BitVec.ofBool s.patnop ++ BitVec.ofBool s.err
    ++ BitVec.ofBool s.done ++ BitVec.ofBool s.busy

/-- The interrupt request, `IE and (DONE or PHASE = HALT)` (R43). -/
def State.irq (s : State) : Bool := s.ie && (s.done || s.err)

/-- `DONE <- 0 ; PATNOP <- 0` (spec/40_commands.md R121). -/
def State.clearCompletion (s : State) : State := { s with done := false, patnop := false }

end Sys2Proof.Machine
end

