-- ==== Sys2Proof/Machine/Operands.lean ====
section
/-! DEFINITION. The quantities an instruction computes from the configuration and `PIX`: derived lengths
(spec/10_state.md R39), raw addresses (41_unpack_steps.md R150), coordinates and plane indices
(42_demosaic_steps.md R170 to R175). All are naturals and nothing wraps (00_scope.md R9). -/

namespace Sys2Proof.Machine

/-- `ceil(a / b)` is `(a + b - 1) / b` (R9). -/
def ceilDiv (a b : Nat) : Nat := (a + b - 1) / b

/-- `W`. -/
def State.w (s : State) : Nat := s.width.toNat
/-- `H`. -/
def State.h (s : State) : Nat := s.height.toNat
/-- `D`. -/
def State.d (s : State) : Nat := s.bitDepth.toNat
/-- The index of the pixel the next step processes. -/
def State.p (s : State) : Nat := s.pix.toNat

/-- `NPIX = W * H` (R39). -/
def State.npix (s : State) : Nat := s.w * s.h
/-- `RAWLEN` of a frame of `n` pixels of `d` bits, `ceil(n * d / 8)` (R39). -/
def frameBytes (n d : Nat) : Nat := ceilDiv (n * d) 8
/-- `RAWLEN` (R39). -/
def State.rawlen (s : State) : Nat := frameBytes s.npix s.d
/-- `RGBLEN = 3 * W * H` (R39). -/
def State.rgblen (s : State) : Nat := 3 * s.npix

/-- `bitOff`: the position of bit 0 of sample `i` in the frame (R150). -/
def bitOff (d i : Nat) : Nat := d * i
/-- `byteOff` (R150). -/
def byteOff (d i : Nat) : Nat := bitOff d i / 8
/-- `shift` (R150). -/
def shiftOf (d i : Nat) : Nat := bitOff d i % 8

/-- The sample `value` of `UNPK.ONE`: `low & (2^D - 1)` (R153). -/
def sampleOne (d i : Nat) (b0 : Byte) : Nat :=
  (b0.toNat >>> shiftOf d i) &&& (2 ^ d - 1)

/-- The sample `value` of `UNPK.TWO`: `low + (high << (8 - shift))` (R154). -/
def sampleTwo (d i : Nat) (b0 b1 : Byte) : Nat :=
  let low := b0.toNat >>> shiftOf d i
  let rem := d - (8 - shiftOf d i)
  let high := b1.toNat &&& (2 ^ rem - 1)
  low + (high <<< (8 - shiftOf d i))

/-- The scaling law: `out = (value * 256) / 2^D`, truncating (R155). -/
def scale (d value : Nat) : Byte := BitVec.ofNat 8 (value * 256 / 2 ^ d)

/-- `line = p / W + 1` (R170). -/
def lineOf (w p : Nat) : Nat := p / w + 1
/-- `row = p % W + 1`, the image column (R170). -/
def rowOf (w p : Nat) : Nat := p % w + 1

/-- The plane indices of `DM.OO` (R172). -/
def iBoo (w line row : Nat) : Nat := w * line + row
def iGoo (w line row : Nat) : Nat := w * (line - 1) + row
def iRoo (w line row : Nat) : Nat := w * (line - 1) + row - 1

/-- The plane indices of `DM.OE` (R173). -/
def iBoe (w line row : Nat) : Nat := w * line + row - 1
def iGoe (w line row : Nat) : Nat := w * (line - 1) + row - 1
def iG2oe (w line row : Nat) : Nat := w * line + row - 2
def iRoe (w line row : Nat) : Nat := w * (line - 1) + row - 2

/-- The plane indices of `DM.EO` (R174). -/
def iBeo (w line row : Nat) : Nat := w * (line - 1) + row
def iGeo (w line row : Nat) : Nat := w * (line - 1) + row - 1
def iReo (w line row : Nat) : Nat := w * (line - 2) + row - 1

/-- The plane indices of `DM.EE` (R175). -/
def iBee (w line row : Nat) : Nat := w * (line - 1) + row - 1
def iGee (w line row : Nat) : Nat := w * (line - 1) + row - 2
def iRee (w line row : Nat) : Nat := w * (line - 2) + row - 2

/-- The green average of `DM.OE`: the sum formed exactly, the division truncating (R176). -/
def average (g1 g2 : Byte) : Byte := BitVec.ofNat 8 ((g1.toNat + g2.toNat) / 2)

/-- The selector of the next unpack step: `e` is 1 when `D = 8`, `s` is 1 when `shift + D > 8`
(spec/30_encoding.md R94). -/
def State.ustepSelector (s : State) : BitVec 2 :=
  BitVec.ofBool (decide (s.d = 8)) ++ BitVec.ofBool (decide (8 < shiftOf s.d s.p + s.d))

/-- The selector of the next demosaic step: the least significant bits of `line` and `row` (R95). -/
def State.dstepSelector (s : State) : BitVec 2 :=
  BitVec.ofBool ((lineOf s.w s.p).testBit 0) ++ BitVec.ofBool ((rowOf s.w s.p).testBit 0)

end Sys2Proof.Machine
end

