-- ==== Sys2Proof/Machine/Ops.lean ====
section
/-! DEFINITION. The named operations over memory and registers: byte reads and writes, taking a fault and the way
back from one, the end of a step, and what a turn does to the model's own fields. -/

namespace Sys2Proof.Machine

/-- The byte listed at `k`, if something has written it. -/
def Memory.read : Memory → Nat → Option Byte
  | [], _ => none
  | (a, b) :: rest, k => if a = k then some b else Memory.read rest k

/-- Store `b` at `k`, keeping the indices in strictly rising order. -/
def Memory.write : Memory → Nat → Byte → Memory
  | [], k, b => [(k, b)]
  | (a, c) :: rest, k, b =>
    if k < a then (k, b) :: (a, c) :: rest
    else if k = a then (k, b) :: rest
    else (a, c) :: Memory.write rest k b

/-- The canonical form: indices strictly rising. -/
abbrev Memory.wf (m : Memory) : Prop := m.Pairwise (fun x y => x.1 < y.1)

/-- Every listed index is below the capacity. -/
abbrev Memory.below (m : Memory) (cap : Nat) : Prop := ∀ c ∈ m, c.1 < cap

/-- The memory of a space. -/
def State.mem (s : State) : Space → Memory
  | .raw => s.raw
  | .plane => s.plane
  | .rgb => s.rgb

/-- The capacity of a space (spec/00_scope.md R5). -/
def State.cap (s : State) : Space → Nat
  | .raw => s.caps.raw
  | .plane => s.caps.plane
  | .rgb => s.caps.rgb

/-- The byte at index `k` of a space: the byte last written there, or, where nothing has written since power-up,
the free value of that index (spec/20_memory.md R68, 10_state.md R45). -/
def State.byteAt (s : State) (sp : Space) (k : Nat) : Byte :=
  match (s.mem sp).read k with
  | some b => b
  | none => Config.powerUpByte sp k

/-- The state with one byte stored (R68: "a write changes only the addressed byte"). -/
def State.setByte (s : State) (sp : Space) (k : Nat) (b : Byte) : State :=
  match sp with
  | .raw => { s with raw := s.raw.write k b }
  | .plane => { s with plane := s.plane.write k b }
  | .rgb => { s with rgb := s.rgb.write k b }

/-- `MemRead(sp, k, 1)` by the block: go on with the byte. An index at or above the capacity names no byte. -/
def withByte (sp : Space) (k : Nat) (s : State) (cont : Byte → Result) : Result :=
  if k < s.cap sp then cont (s.byteAt sp k) else .fault (.noSuchByte sp k)

/-- `MemWrite(sp, k, 1, b)` by the block: go on in the state with the byte stored. -/
def storeByte (sp : Space) (k : Nat) (b : Byte) (s : State) (cont : State → Result) : Result :=
  if k < s.cap sp then cont (s.setByte sp k b) else .fault (.noSuchByte sp k)

/-- TAKING A FAULT: `raise F(fpix, faddr)` (spec/60_exceptions.md R239). Everything the rule does not name stays. -/
def State.raise (f : FaultCode) (fpix : Word) (faddr : Nat) (s : State) : State :=
  { s with ecode := some f, fpix := fpix, faddr := BitVec.ofNat 32 faddr, chain := false, phase := .halt }

/-- Every register state element at its reset value, the memories as they are (spec/10_state.md R44,
40_commands.md R125). The model's own fields stay. -/
def State.resetRegisters (s : State) : State :=
  { State.resetWith s.caps with
    raw := s.raw, plane := s.plane, rgb := s.rgb, agenda := s.agenda, replies := s.replies }

/-- THE WAY BACK from `HALT`, and the end of any run: the soft reset (R125, 60_exceptions.md R242). -/
def State.softReset (s : State) : State := s.resetRegisters

/-- The hardware reset (spec/70_reset_and_hazards.md R260), which leaves the same values (R261). -/
def State.hardReset (s : State) : State := s.resetRegisters

/-- Plane read with bounds check: `plane(k)` of spec/42_demosaic_steps.md R171. An index at or beyond `NPIX`
raises `BOUNDS` with the pixel's index and `k`, and no access is made. -/
def withPlane (k : Nat) (s : State) (cont : Byte → Result) : Result :=
  if k < s.npix then withByte .plane k s cont else .next (s.raise .bounds s.pix k)

/-- The second raw read: zero, and no access, at or beyond `RAWLEN` (spec/41_unpack_steps.md R151). -/
def withSecondByte (k : Nat) (s : State) (cont : Byte → Result) : Result :=
  if k < s.rawlen then withByte .raw k s cont else cont 0#8

/-- The end of an unpack step (spec/40_commands.md R128). -/
def State.endUnpackStep (s : State) : State :=
  let t := { s with pix := s.pix + 1#32 }
  if t.p = t.npix then
    if t.chain then { t with chain := false, pix := 0#32, phase := .demosaic }
    else { t with phase := .idle, done := true }
  else t

/-- The end of a demosaic step (R129). -/
def State.endDemosaicStep (s : State) : State :=
  let t := { s with pix := s.pix + 1#32 }
  if t.p = t.npix then { t with phase := .idle, done := true } else t

/-- The write-back of an unpack step: the one write `PLANE[PIX] <- out`, then the counter update
(spec/41_unpack_steps.md R156). -/
def finishUnpack (out : Byte) (s : State) : Result :=
  storeByte .plane s.p out s fun t => .next t.endUnpackStep

/-- The write-back of a demosaic step: B, G, R in this order, then the counter update
(spec/42_demosaic_steps.md R177). -/
def finishDemosaic (b g r : Byte) (s : State) : Result :=
  storeByte .rgb (3 * s.p) b s fun s1 =>
  storeByte .rgb (3 * s.p + 1) g s1 fun s2 =>
  storeByte .rgb (3 * s.p + 2) r s2 fun s3 => .next s3.endDemosaicStep

/-- The state with its first turn taken off the agenda. -/
def State.popTurn (s : State) : State := { s with agenda := s.agenda.tail }

/-- The state with one more reply for the host. -/
def State.reply (r : HostReply) (s : State) : State := { s with replies := r :: s.replies }

end Sys2Proof.Machine
end

