-- ==== Sys2Proof/Machine/Commands.lean ====
section
/-! DEFINITION. The meanings of the four command words, and of an illegal one (spec/40_commands.md). -/

namespace Sys2Proof.Machine

/-- Presenting a command word other than `SRST` (R120, R121): outside `IDLE` it is dropped and nothing changes; in
`IDLE` the completion flags are cleared and the command starts. -/
def State.present (start : State → State) (s : State) : State :=
  if s.phase = .idle then start s.clearCompletion else s

/-- A start fault: `raise F(0, v)` with the command word `v` (spec/60_exceptions.md R230, R232 to R235). -/
def State.startFault (f : FaultCode) (v : Word) (s : State) : State := s.raise f 0#32 v.toNat

/-- The start of `UNPACK` (R122). -/
def startUnpack (v : Word) (s : State) : State :=
  if s.w = 0 ∨ s.h = 0 then s.startFault .argCfg v
  else if s.d ∉ Config.legalDepths then s.startFault .argCfg v
  else if s.caps.raw < s.rawlen ∨ s.caps.plane < s.npix then s.startFault .alloc v
  else if s.rawLen.toNat < s.rawlen then s.startFault .shortRead v
  else { s with chain := false, pix := 0#32, phase := .unpack }

/-- The start of `DEMOSAIC` (R123). -/
def startDemosaic (v : Word) (s : State) : State :=
  if s.w = 0 ∨ s.h = 0 then s.startFault .argCfg v
  else if s.caps.plane < s.npix ∨ s.caps.rgb < s.rgblen then s.startFault .alloc v
  else if s.pattern ≠ 0#2 then { s with pix := 0#32, patnop := true, done := true }
  else { s with pix := 0#32, phase := .demosaic }

/-- The start of `CONVERT 0`, once the type check has passed (R124): `BITDEPTH` and `PATTERN` are overwritten
before the other checks, so that a fault leaves the overwrite in place. -/
def startConversion (v : Word) (s : State) : State :=
  let t := { s with bitDepth := 10#5, pattern := 0#2 }
  if t.w = 0 ∨ t.h = 0 then t.startFault .argCfg v
  else if t.caps.raw < t.rawlen ∨ t.caps.plane < t.npix ∨ t.caps.rgb < t.rgblen then t.startFault .alloc v
  else if t.rawLen.toNat < t.rawlen then t.startFault .shortRead v
  else { t with chain := true, pix := 0#32, phase := .unpack }

/-- The start of `CONVERT ctype` (R124): type 0 is the one defined conversion, every other one is refused with
`ARG_CMD` (spec/30_encoding.md R92). -/
def startConvert (ctype : Nat) (v : Word) (s : State) : State :=
  if ctype = 0 then startConversion v s else s.startFault .argCmd v

/-- `UNPACK` (R122). -/
def execUnpack (s : State) : Result :=
  .next (s.present (startUnpack (commandWord .unpack)))

/-- `DEMOSAIC` (R123). -/
def execDemosaic (s : State) : Result :=
  .next (s.present (startDemosaic (commandWord .demosaic)))

/-- `CONVERT ctype` (R124). -/
def execConvert (ctype : Nat) (s : State) : Result :=
  .next (s.present (startConvert ctype (commandWord (.convert ctype))))

/-- `SRST`, accepted in every phase (R125). -/
def execSrst (s : State) : Result := .next s.softReset

/-- An illegal command word (R126): `ARG_CMD` in `IDLE`, dropped in every other phase. -/
def presentIllegal (v : Word) (s : State) : Result :=
  .next (s.present (State.startFault .argCmd v))

end Sys2Proof.Machine
end

