-- ==== Sys2Proof/Machine/DemosaicSteps.lean ====
section
/-! DEFINITION. The meanings of the four demosaic step kinds (spec/42_demosaic_steps.md). Each processes pixel
`PIX`, reads the plane in the order B, G, second G, R (R178) and writes one triple; the sequencer runs a kind only
where spec/30_encoding.md R95 selects it. -/

namespace Sys2Proof.Machine

/-- `DM.OO` (R172). -/
def execDmOO (s : State) : Result :=
  let line := lineOf s.w s.p
  let row := rowOf s.w s.p
  withPlane (iBoo s.w line row) s fun b =>
  withPlane (iGoo s.w line row) s fun g =>
  withPlane (iRoo s.w line row) s fun r =>
  finishDemosaic b g r s

/-- `DM.OE` (R173), the only kind that averages (R176). -/
def execDmOE (s : State) : Result :=
  let line := lineOf s.w s.p
  let row := rowOf s.w s.p
  withPlane (iBoe s.w line row) s fun b =>
  withPlane (iGoe s.w line row) s fun g1 =>
  withPlane (iG2oe s.w line row) s fun g2 =>
  withPlane (iRoe s.w line row) s fun r =>
  finishDemosaic b (average g1 g2) r s

/-- `DM.EO` (R174). -/
def execDmEO (s : State) : Result :=
  let line := lineOf s.w s.p
  let row := rowOf s.w s.p
  withPlane (iBeo s.w line row) s fun b =>
  withPlane (iGeo s.w line row) s fun g =>
  withPlane (iReo s.w line row) s fun r =>
  finishDemosaic b g r s

/-- `DM.EE` (R175). -/
def execDmEE (s : State) : Result :=
  let line := lineOf s.w s.p
  let row := rowOf s.w s.p
  withPlane (iBee s.w line row) s fun b =>
  withPlane (iGee s.w line row) s fun g =>
  withPlane (iRee s.w line row) s fun r =>
  finishDemosaic b g r s

end Sys2Proof.Machine
end

