-- ==== Sys2Proof/Machine/UnpackSteps.lean ====
section
/-! DEFINITION. The meanings of the three unpack step kinds (spec/41_unpack_steps.md). Each processes pixel `PIX`;
the sequencer runs a kind only where spec/30_encoding.md R94 selects it. -/

namespace Sys2Proof.Machine

/-- `UNPK.COPY` (R152): one raw read, no shift, no scaling. -/
def execUnpkCopy (s : State) : Result :=
  withByte .raw s.p s fun out => finishUnpack out s

/-- `UNPK.ONE` (R153): the sample lies inside one byte; the second byte is read and discarded (R151). -/
def execUnpkOne (s : State) : Result :=
  withByte .raw (byteOff s.d s.p) s fun b0 =>
  withSecondByte (byteOff s.d s.p + 1) s fun _ =>
  finishUnpack (scale s.d (sampleOne s.d s.p b0)) s

/-- `UNPK.TWO` (R154): the sample spans into the next byte. -/
def execUnpkTwo (s : State) : Result :=
  withByte .raw (byteOff s.d s.p) s fun b0 =>
  withSecondByte (byteOff s.d s.p + 1) s fun b1 =>
  finishUnpack (scale s.d (sampleTwo s.d s.p b0 b1)) s

end Sys2Proof.Machine
end

