-- ==== Sys2Proof/Machine/Dispatch.lean ====
section
/-! DEFINITION. The meaning of every instruction, one arm each. -/

namespace Sys2Proof.Machine

def exec (i : Instr) (s : State) : Host.Outcome State Fault Refusal :=
  match i with
  | .unpack => Sys2Proof.Machine.execUnpack s
  | .demosaic => Sys2Proof.Machine.execDemosaic s
  | .convert ctype => Sys2Proof.Machine.execConvert ctype s
  | .srst => Sys2Proof.Machine.execSrst s
  | .unpkCopy => Sys2Proof.Machine.execUnpkCopy s
  | .unpkOne => Sys2Proof.Machine.execUnpkOne s
  | .unpkTwo => Sys2Proof.Machine.execUnpkTwo s
  | .dmOO => Sys2Proof.Machine.execDmOO s
  | .dmOE => Sys2Proof.Machine.execDmOE s
  | .dmEO => Sys2Proof.Machine.execDmEO s
  | .dmEE => Sys2Proof.Machine.execDmEE s

end Sys2Proof.Machine
end

