-- ==== Sys2Proof/Machine/HostPort.lean ====
section
/-! DEFINITION. The host's accesses: the register interface (spec/10_state.md R21 to R34), the buffer accesses
(20_memory.md R69, R70), hardware reset (70_reset_and_hazards.md R260) and the `irq` level. A write to `CMD` is a
command and is in Commands.lean. -/

namespace Sys2Proof.Machine

/-- `RegRead(n)` (R21): the value of register number `n`. `CMD` (1) and every number from 11 up read 0 (R23, R33). -/
def State.regValue (s : State) (n : Nat) : Word :=
  match n with
  | 0 => (BitVec.ofBool s.ie).setWidth 32   -- CTRL, R22
  | 2 => s.statusWord                       -- STATUS, R24
  | 3 => s.width.setWidth 32                -- WIDTH, R25
  | 4 => s.height.setWidth 32               -- HEIGHT, R26
  | 5 => s.bitDepth.setWidth 32             -- BITDEPTH, R27
  | 6 => s.pattern.setWidth 32              -- PATTERN, R28
  | 7 => s.rawLen                           -- RAW_LEN, R29
  | 8 => s.pix                              -- PIX, R30
  | 9 => s.fpix                             -- FPIX, R31
  | 10 => s.faddr                           -- FADDR, R32
  | _ => 0#32

/-- A configuration write takes effect only when the block is not busy (R34). -/
def State.whenNotBusy (s : State) (t : State) : State := if s.busy then s else t

/-- `RegWrite(n, v)` (R21), `n` not `CMD`: reserved bits, read-only registers and absent numbers ignore the write
(R22 to R33). -/
def State.regWrite (s : State) (n : Nat) (v : Word) : State :=
  match n with
  | 0 => { s with ie := v.getLsbD 0 }
  | 3 => s.whenNotBusy { s with width := v.setWidth 16 }
  | 4 => s.whenNotBusy { s with height := v.setWidth 16 }
  | 5 => s.whenNotBusy { s with bitDepth := v.setWidth 5 }
  | 6 => s.whenNotBusy { s with pattern := v.setWidth 2 }
  | 7 => s.whenNotBusy { s with rawLen := v }
  | _ => s

/-- A buffer access of the host: refused while the block owns the buffers (R70, U1) and at an index that names no
byte (R69, U7). -/
def hostBuffer (sp : Space) (k : Nat) (s : State) (cont : State) : Result :=
  if s.busy then .refused (.hostBufferWhileBusy sp k)
  else if k < s.cap sp then .next cont
  else .refused (.hostBufferPastCapacity sp k)

/-- One access of the host, each atomic. -/
def hostAccess (a : HostAccess) (s : State) : Result :=
  match a with
  | .regRead n => .next (s.reply (.reg n (s.regValue n)))
  | .regWrite n v => .next (s.regWrite n v)
  | .bufRead sp k => hostBuffer sp k s (s.reply (.buf sp k (s.byteAt sp k)))
  | .bufWrite sp k b => hostBuffer sp k s (s.setByte sp k b)
  | .hardReset => .next s.hardReset
  | .sampleIrq => .next (s.reply (.irq s.irq))

/-- One poll of `WAIT` (spec/30_encoding.md R99): `RD STATUS`; while the value read has `BUSY` set, the block takes
a step and the host polls again (notes/assumptions/16.md). -/
def pollStatus (s : State) : Result :=
  let t := s.reply (.reg 2 s.statusWord)
  if s.statusWord.getLsbD 0 then .next { t with agenda := .block :: .wait :: t.agenda } else .next t

end Sys2Proof.Machine
end

