-- ==== Sys2Proof/Machine/Sequencer.lean ====
section
/-! DEFINITION. What the next step is: whose turn it is, and which instruction runs (spec/00_scope.md R7,
40_commands.md R120, R127). -/

namespace Sys2Proof.Machine

/-- The work of one step. -/
inductive Work where
  /-- Run an instruction: a command word was presented, or the block's selector names a step kind. -/
  | run (i : Instr)
  /-- An illegal command word was presented. -/
  | illegal (v : Word)
  /-- The host makes an access that is no command. -/
  | access (a : HostAccess)
  /-- The host polls `STATUS`. -/
  | poll
  /-- The block has no step to take. -/
  | rest
  /-- The selector names no step kind. -/
  | noKind
deriving DecidableEq, Repr

/-- The word written to `CMD`, decoded (R120). -/
def commandWork (v : Word) : Work :=
  match decode (.cmdw v) with
  | .instr i => .run i
  | .reject _ => .illegal v

/-- The block's selector, decoded. -/
def selectorWork (e : Encoding) : Work :=
  match decode e with
  | .instr i => .run i
  | .reject _ => .noKind

/-- "The block has a step to take exactly when `PHASE` is `UNPACK` or `DEMOSAIC`" (R127). -/
def blockWork (s : State) : Work :=
  match s.phase with
  | .unpack => selectorWork (.ustep s.ustepSelector)
  | .demosaic => selectorWork (.dstep s.dstepSelector)
  | .idle | .halt => .rest

/-- A host access is a command when it writes register 1 (spec/10_state.md R23). -/
def hostWork (a : HostAccess) : Work :=
  match a with
  | .regWrite n v => if n = 1 then commandWork v else .access a
  | .regRead _ | .bufRead _ _ | .bufWrite _ _ _ | .hardReset | .sampleIrq => .access a

/-- The work of the next step: the first turn of the agenda, the block's when the agenda is empty. -/
def nextWork (s : State) : Work :=
  match s.agenda with
  | [] => blockWork s
  | .block :: _ => blockWork s
  | .wait :: _ => .poll
  | .host a :: _ => hostWork a

/-- A 2 by 2 frame in the phase, depth and pixel at which the selector names the step kind `i`: what it takes for
the very next step to run it (notes/assumptions/26.md). A command takes no such setting. -/
def State.selecting (i : Instr) (s : State) : State :=
  let t := { s with width := 2#16, height := 2#16, pattern := 0#2, agenda := .block :: s.agenda }
  match i with
  | .unpkCopy => { t with phase := .unpack, bitDepth := 8#5, pix := 0#32 }
  | .unpkOne => { t with phase := .unpack, bitDepth := 4#5, pix := 0#32 }
  | .unpkTwo => { t with phase := .unpack, bitDepth := 10#5, pix := 0#32 }
  | .dmOO => { t with phase := .demosaic, pix := 0#32 }
  | .dmOE => { t with phase := .demosaic, pix := 1#32 }
  | .dmEO => { t with phase := .demosaic, pix := 2#32 }
  | .dmEE => { t with phase := .demosaic, pix := 3#32 }
  | .unpack | .demosaic | .convert _ | .srst => s

/-- The state in which the encoding is the next thing the machine runs: a command word is the host's next write
to `CMD`; a step selector is what the configuration and `PIX` give. -/
def State.withEncoding (s : State) (e : Encoding) : State :=
  match e with
  | .cmdw v => { s with agenda := .host (.regWrite 1 v) :: s.agenda }
  | .ustep es => match decodeUstep es with
    | .instr i => s.selecting i
    | .reject _ => s
  | .dstep lr => match decodeDstep lr with
    | .instr i => s.selecting i
    | .reject _ => s

end Sys2Proof.Machine
end

