-- ==== Sys2Proof/Machine/Step.lean ====
section
/-! DEFINITION. One step of the machine. -/

namespace Sys2Proof.Machine

/-- One atomic step (spec/00_scope.md R7): the turn is taken off the agenda and its work is done. A turn given to a
block that has no step to take changes nothing else (R127, notes/assumptions/17.md). -/
def step (s : State) : Host.Outcome State Fault Refusal :=
  match nextWork s with
  | .run i => exec i s.popTurn
  | .illegal v => presentIllegal v s.popTurn
  | .access a => hostAccess a s.popTurn
  | .poll => pollStatus s.popTurn
  | .rest => .next s.popTurn
  | .noKind => .fault .noStepKind

/-- `s` with the opcode table's number `w` of `nbits` bits as the very next thing the machine runs
(notes/assumptions/7.md). -/
def State.withFetchWord (s : State) (nbits w : Nat) : State :=
  match tableEncoding nbits w with
  | some e => s.withEncoding e
  | none => s

end Sys2Proof.Machine
end

