-- ==== Sys2Proof/Machine/HostScript.lean ====
section
/-! DEFINITION. The host script notation (spec/30_encoding.md R98, R99), wide host accesses (20_memory.md R69) and
the driver sequence (43_host_container.md R212), each written as the turns it stands for. -/

namespace Sys2Proof.Machine

/-- The register names of spec/10_state.md R21. -/
inductive RegName where
  | ctrl
  | cmd
  | status
  | width
  | height
  | bitDepth
  | pattern
  | rawLen
  | pix
  | fpix
  | faddr
deriving DecidableEq, Repr

/-- The register number of a name (R21). -/
def RegName.number : RegName → Nat
  | .ctrl => 0
  | .cmd => 1
  | .status => 2
  | .width => 3
  | .height => 4
  | .bitDepth => 5
  | .pattern => 6
  | .rawLen => 7
  | .pix => 8
  | .fpix => 9
  | .faddr => 10

/-- One line of a host script: the plain lines of R98 and the pseudo-lines of R99. -/
inductive ScriptLine where
  | wr (reg : RegName) (v : Word)
  | rd (reg : RegName)
  | unpack
  | demosaic
  | convert (c : Nat)
  | srst
  | cmdw (v : Word)
  | st (sp : Space) (k : Nat) (b : Byte)
  | ld (sp : Space) (k : Nat)
  | fill (sp : Space) (bytes : List Byte)
  | dump (sp : Space) (n : Nat)
  | wait
  | config (w h d p : Word)
deriving DecidableEq, Repr

/-- `ST sp[k], b0`, `ST sp[k+1], b1`, and so on in increasing index. -/
def storeTurns (sp : Space) : Nat → List Byte → List Turn
  | _, [] => []
  | k, b :: bs => .host (.bufWrite sp k b) :: storeTurns sp (k + 1) bs

/-- `LD sp[k]` .. `LD sp[k+n-1]`. -/
def loadTurns (sp : Space) : Nat → Nat → List Turn
  | _, 0 => []
  | k, n + 1 => .host (.bufRead sp k) :: loadTurns sp (k + 1) n

/-- The `n` bytes of `v`, least significant first. -/
def bytesLE : Nat → Nat → List Byte
  | 0, _ => []
  | n + 1, v => BitVec.ofNat 8 v :: bytesLE n (v / 256)

/-- A host write of `n` bytes at once through a buffer aperture: the byte writes in increasing index order, the
byte at the lowest index the least significant (spec/20_memory.md R69). -/
def wideWrite (sp : Space) (k n v : Nat) : List Turn := storeTurns sp k (bytesLE n v)

/-- A host read of `n` bytes at once: the byte reads in increasing index order (R69). Once they are made, the word it
returns is `State.wideValue n`. -/
def wideRead (sp : Space) (k n : Nat) : List Turn := loadTurns sp k n

/-- The number whose bytes are listed, least significant first. -/
def natOfBytesLE : List Byte → Nat
  | [] => 0
  | b :: bs => b.toNat + 256 * natOfBytesLE bs

/-- The byte of a buffer read. -/
def HostReply.byte? : HostReply → Option Byte
  | .buf _ _ b => some b
  | .reg _ _ | .irq _ => none

/-- The bytes of the last `n` reads, oldest first. -/
def State.lastBytes (n : Nat) (s : State) : List Byte := ((s.replies.take n).reverse).filterMap HostReply.byte?

/-- The word that a host read of `n` bytes returns, formed from the last `n` byte reads: "the byte at the lowest index
being the least significant" (R69). -/
def State.wideValue (n : Nat) (s : State) : Nat := natOfBytesLE (s.lastBytes n)

/-- A write of a register by name. -/
def wrTurn (reg : RegName) (v : Word) : Turn := .host (.regWrite reg.number v)

/-- The accesses a script line stands for (R98, R99). -/
def ScriptLine.turns : ScriptLine → List Turn
  | .wr reg v => [wrTurn reg v]
  | .rd reg => [.host (.regRead reg.number)]
  | .unpack => [wrTurn .cmd (commandWord .unpack)]
  | .demosaic => [wrTurn .cmd (commandWord .demosaic)]
  | .convert c => [wrTurn .cmd (commandWord (.convert c))]
  | .srst => [wrTurn .cmd (commandWord .srst)]
  | .cmdw v => [wrTurn .cmd v]
  | .st sp k b => storeTurns sp k [b]
  | .ld sp k => loadTurns sp k 1
  | .fill sp bytes => storeTurns sp 0 bytes
  | .dump sp n => loadTurns sp 0 n
  | .wait => [.wait]
  | .config w h d p => [wrTurn .width w, wrTurn .height h, wrTurn .bitDepth d, wrTurn .pattern p]

/-- The turns of a whole script. -/
def scriptTurns (lines : List ScriptLine) : List Turn := lines.flatMap ScriptLine.turns

/-- The word of `WR RAW_LEN, n` (step 5 of R212). DESIGN CHOICE: the spec does not say what is written where `n` does not
fit the 32-bit register; the word is free then (notes/assumptions/29.md). -/
def rawLenWord (n : Nat) : Word :=
  if n < 2 ^ 32 then BitVec.ofNat 32 n else Config.oversizeRawLen n

/-- Steps 3 to 7 of the driver sequence, and the `STATUS` read of step 8, for the raw bytes the host obtained and the
conversion type it asks for (spec/43_host_container.md R212). -/
def driverStart (width height : Word) (ctype : Byte) (input : List Byte) : List Turn :=
  scriptTurns [.wr .width width, .wr .height height, .fill .raw input,
    .wr .rawLen (rawLenWord input.length), .convert ctype.toNat, .wait, .rd .status]

/-- The access of step 8 of the driver sequence after an error: `SRST` (R212). -/
def driverRecovery : List Turn := scriptTurns [.srst]

/-- The accesses of step 10: the RGB buffer (R212). -/
def driverDump (rgblen : Nat) : List Turn := scriptTurns [.dump .rgb rgblen]

end Sys2Proof.Machine
end

