-- ==== Sys2Proof/Machine/HostContainer.lean ====
section
/-! DEFINITION. Host software, outside the block (spec/00_scope.md R4 (a)): the bitmap container
(43_host_container.md R201 to R205), the write-retry loop (R207) and the error kinds (R208). None of it touches the
state of the machine; HostDriver.lean puts it to use. -/

namespace Sys2Proof.Machine

/-- A 4-byte size field, least significant byte first; a size that 4 bytes cannot hold leaves its bytes free
(notes/assumptions/27.md). -/
def sizeField (size : Nat) : List Byte :=
  if size < 2 ^ 32 then bytesLE 4 size else bytesLE 4 (Config.oversizeField size).toNat

/-- The 14 bytes of the file header: `bfType` "BM", `bfSize`, two reserved fields, `bfOffBits` (R202, R203). DESIGN CHOICE:
the spec does not say what `bfSize` holds where `54 + RGBLEN` does not fit its 4 bytes; `sizeField` leaves it free
(notes/assumptions/27.md). -/
def fileHeader (rgbLen : Nat) : List Byte :=
  bytesLE 2 0x4D42 ++ sizeField (54 + rgbLen) ++ bytesLE 2 0 ++ bytesLE 2 0 ++ bytesLE 4 54

/-- The 40 bytes of the info header (R202, R203): `biSize`, `biWidth`, `biHeight`, `biPlanes`, `biBitCount`,
`biCompression`, `biSizeImage`, the two resolutions, `biClrUsed` (the constant 16777216), `biClrImportant`. A dimension of
the machine is below 2^16 and fits its field. -/
def infoHeader (width height rgbLen : Nat) : List Byte :=
  bytesLE 4 40 ++ bytesLE 4 width ++ bytesLE 4 height ++ bytesLE 2 1 ++ bytesLE 2 24 ++ bytesLE 4 0
    ++ sizeField rgbLen ++ bytesLE 4 0 ++ bytesLE 4 0 ++ bytesLE 4 16777216 ++ bytesLE 4 0

/-- The 54 bytes before the payload (R201), which are emitted apart from it (R205). -/
def bitmapHeader (width height rgbLen : Nat) : List Byte := fileHeader rgbLen ++ infoHeader width height rgbLen

/-- `encode(width, height, rgb)`: the header, then the RGB buffer verbatim, no colour table and no row padding
(R201, R204, R205). -/
def bitmapFile (width height : Nat) (rgb : List Byte) : List Byte := bitmapHeader width height rgb.length ++ rgb

/-- How the write-retry loop ends. -/
inductive WriteResult where
  /-- Every byte was accepted. -/
  | success
  /-- `WriteFailure`: a call returned a non-positive result; what was accepted stays. -/
  | writeFailure
  /-- The list of sink results ran out with bytes still to write: the loop is still waiting for a call. -/
  | unfinished
deriving DecidableEq, Repr

/-- A run of the write-retry loop. -/
structure Written where
  /-- How it ended. -/
  result : WriteResult
  /-- What `sink` was given at each call, in order: the tail `RGB[off ..]` (R207). -/
  calls : List (List Byte)
  /-- The bytes the sink accepted, in order. They stay whatever the result: "partial output is not rolled back". -/
  accepted : List Byte
  /-- The results of the sink's later calls, for whoever writes next. -/
  rest : List Int
deriving DecidableEq, Repr

/-- The write-retry loop (R207) over the tail still to be written; `sink` lists the results of the successive calls
(notes/assumptions/23.md). A result above the length of the tail ends the loop, as `off < RGBLEN` then fails. -/
def writeLoop : List Byte → List Int → Written
  | [], sink => ⟨.success, [], [], sink⟩
  | _ :: _, [] => ⟨.unfinished, [], [], []⟩
  | b :: bs, n :: sink =>
    if n ≤ 0 then ⟨.writeFailure, [b :: bs], [], sink⟩
    else
      let w := writeLoop ((b :: bs).drop n.toNat) sink
      { w with calls := (b :: bs) :: w.calls, accepted := (b :: bs).take n.toNat ++ w.accepted }

/-- The source's five error kinds (R208). -/
inductive HostError where
  | allocationFailure
  | openFailure
  | writeFailure
  | argumentError
  | other
  /-- The recommended `ShortRead` (R210). -/
  | shortRead
  /-- No kind of the source: an index outside the plane, its open question of section 9 (R231). -/
  | boundaryReference
deriving DecidableEq, Repr

/-- The source's kind of each fault code, the last column of spec/60_exceptions.md R231. -/
def FaultCode.hostError : FaultCode → HostError
  | .argCmd => .argumentError
  | .argCfg => .argumentError
  | .alloc => .allocationFailure
  | .shortRead => .shortRead
  | .bounds => .boundaryReference

/-- The fault a code stands for (spec/60_exceptions.md R231); 0 and 6 to 15 stand for none. -/
def FaultCode.ofCode (c : BitVec 4) : Option FaultCode :=
  if c = 1#4 then some .argCmd
  else if c = 2#4 then some .argCfg
  else if c = 3#4 then some .alloc
  else if c = 4#4 then some .shortRead
  else if c = 5#4 then some .bounds
  else none

/-- Step 8 of R212: "map `ECODE` to the source's kind". A `STATUS` word with `ERR` set always has one of the five codes
(10_state.md R37); a word with none is `Other` ("unclassified", R208). -/
def errorOfStatus (status : Word) : HostError :=
  match FaultCode.ofCode (status.extractLsb' 8 4) with
  | some f => f.hostError
  | none => .other

end Sys2Proof.Machine
end

