-- ==== Sys2Proof/Machine/Reference.lean ====
section
/-! DEFINITION. The spec's two closed forms, over a buffer given as a function from index to byte: the unpacker as a
function (spec/41_unpack_steps.md R158) and the demosaicer as a function (42_demosaic_steps.md R182, with the
indices relative to the current pixel that R172 to R175 give). They are written apart from the step kinds, to be
compared with them. -/

namespace Sys2Proof.Machine

/-- `bit(RAW, g) = (RAW[g / 8] >> (g % 8)) & 1` (R158). -/
def rawBit (raw : Nat → Byte) (g : Nat) : Nat := ((raw (g / 8)).toNat >>> (g % 8)) &&& 1

/-- The sum over `k` in `0 .. n-1` of `bit(RAW, g + k) * 2^k` (R158). -/
def bitSum (raw : Nat → Byte) (g : Nat) : Nat → Nat
  | 0 => 0
  | n + 1 => bitSum raw g n + rawBit raw (g + n) * 2 ^ n

/-- `unpack_sample(RAW, D, i)` (R158). -/
def unpackSample (raw : Nat → Byte) (d i : Nat) : Nat := bitSum raw (d * i) d * 256 / 2 ^ d

/-- The colour triple of one pixel, blue first. -/
structure Triple where
  b : Byte
  g : Byte
  r : Byte
deriving DecidableEq, Repr

/-- The four sites, by the parities of the 1-based line and column (spec/30_encoding.md R95, in its form
"`l = 1 - (p / W) % 2` and `r = 1 - (p % W) % 2`"). -/
inductive Site where
  | oo
  | oe
  | eo
  | ee
deriving DecidableEq, Repr

/-- The site of pixel `c` in a frame `w` pixels wide. -/
def siteOf (w c : Nat) : Site :=
  if c / w % 2 = 0 then (if c % w % 2 = 0 then .oo else .oe)
  else (if c % w % 2 = 0 then .eo else .ee)

/-- `demosaic_pixel(P, W, c)` (R182). -/
def demosaicPixel (plane : Nat → Byte) (w c : Nat) : Triple :=
  match siteOf w c with
  | .oo => ⟨plane (c + w + 1), plane (c + 1), plane c⟩
  | .oe => ⟨plane (c + w), average (plane c) (plane (c + w - 1)), plane (c - 1)⟩
  | .eo => ⟨plane (c + 1), plane c, plane (c - w)⟩
  | .ee => ⟨plane c, plane (c - 1), plane (c - w - 1)⟩

/-- The largest index the step of pixel `c` reads, its B index (R180 (b), (c)). -/
def largestIndex (w c : Nat) : Nat :=
  match siteOf w c with
  | .oo => c + w + 1
  | .oe => c + w
  | .eo => c + 1
  | .ee => c

end Sys2Proof.Machine
end

