-- ==== Sys2Proof/Machine/HostDriver.lean ====
section
/-! DEFINITION. The whole conversion, host and block together: the pipeline "read raw bytes → unpack → demosaic → encode
→ write" (spec/43_host_container.md R206) as the driver sequence (R212). The host runs the machine by the turns it places,
and keeps what its sink accepted. It is host software and adds no state to the block (R200). -/

namespace Sys2Proof.Machine

/-- What the host has as its input (R208, R211). -/
inductive HostInput where
  /-- No input is named: the "missing-input-path" case of `ArgumentError`. -/
  | missing
  /-- The input cannot be opened. -/
  | unopenable
  /-- The input holds these bytes. -/
  | bytes (data : List Byte)
deriving DecidableEq, Repr

/-- A conversion request: "(`width`, `height`, `ctype`, input source, output sink)" (R212). -/
structure Request where
  width : BitVec 16
  height : BitVec 16
  ctype : Byte
  /-- Whether the host makes the check of step 1 itself, "or let step 6 fault `ARG_CMD`". -/
  checksType : Bool
  input : HostInput
  /-- Whether the output can be opened. -/
  outputOpens : Bool
  /-- The results of the sink's successive calls (notes/assumptions/23.md). -/
  sink : List Int
deriving DecidableEq, Repr

/-- How the driver returns. -/
inductive DriverStatus where
  | success
  | failed (e : HostError)
  /-- The list of sink results ran out with bytes still to write (notes/assumptions/23.md). -/
  | unfinished
  /-- The model stopped one of the accesses, by its fault or refusal (notes/assumptions/9.md). -/
  | stopped
deriving DecidableEq, Repr

/-- What a conversion leaves. -/
structure Conversion where
  status : DriverStatus
  /-- The bytes written to the output; `none` when "no output file is created or modified" (R212). The output file comes
  to be with the header's first write (step 9): that opening it does neither is the model's choice
  (notes/assumptions/28.md). -/
  output : Option (List Byte)
  machine : State
deriving DecidableEq, Repr

/-- The status of the driver after a run of the write loop: success, or `WriteFailure` propagated "to the caller"
(R207, R208). -/
def WriteResult.status : WriteResult → DriverStatus
  | .success => .success
  | .writeFailure => .failed .writeFailure
  | .unfinished => .unfinished

/-- Steps of the machine until no turn waits, at most `n` of them. -/
def runTurns : Nat → State → Result
  | 0, s => .next s
  | n + 1, s =>
    match s.agenda with
    | [] => .next s
    | _ :: _ =>
      match step s with
      | .next t => runTurns n t
      | .fault f => .fault f
      | .refused r => .refused r

/-- The host makes the accesses `turns`, each `WAIT` among them while the block takes at most `blockSteps` steps: two
steps of the machine for each (notes/assumptions/16.md), and one for every turn. -/
def State.hostRun (turns : List Turn) (blockSteps : Nat) (s : State) : Result :=
  runTurns (turns.length + 2 * blockSteps) { s with agenda := turns }

/-- The word that the last register read returned. -/
def State.lastRead (s : State) : Word :=
  match s.replies with
  | .reg _ v :: _ => v
  | .buf _ _ _ :: _ | .irq _ :: _ | [] => 0#32

/-- `RGBLEN` of the request's frame. -/
def Request.rgblen (q : Request) : Nat := 3 * (q.width.toNat * q.height.toNat)

/-- The bytes the host obtains from `data`: "the design reads exactly the expected number of bytes", or fewer where the
input ends before (R210). -/
def Request.obtained (q : Request) (data : List Byte) : List Byte :=
  data.take (frameBytes (q.width.toNat * q.height.toNat) 10)

/-- Steps 10 and 11 of R212, once the header is written: dump the RGB buffer, write those bytes, return. -/
def driverPayload (q : Request) (head : Written) (s : State) : Conversion :=
  match s.hostRun (driverDump q.rgblen) 0 with
  | .next t =>
    let body := writeLoop (t.lastBytes q.rgblen) head.rest
    ⟨body.result.status, some (head.accepted ++ body.accepted), t⟩
  | .fault _ | .refused _ => ⟨.stopped, some head.accepted, s⟩

/-- Step 8 of R212 after an error: `SRST`, and the kind of the fault is returned. "No output byte has been written", and
for a type that the block refused "no output file is created or modified". -/
def driverFail (status : Word) (s : State) : Conversion :=
  match s.hostRun driverRecovery 0 with
  | .next t => ⟨.failed (errorOfStatus status), none, t⟩
  | .fault _ | .refused _ => ⟨.stopped, none, s⟩

/-- Steps 8 to 11 of R212, in the state after the `STATUS` read. The header is written by the same loop as the payload
("the output write path must loop until all bytes are written", R207; notes/assumptions/28.md). -/
def driverFinish (q : Request) (s : State) : Conversion :=
  if s.lastRead.getLsbD 2 then driverFail s.lastRead s
  else
    let head := writeLoop (bitmapHeader q.width.toNat q.height.toNat q.rgblen) q.sink
    match head.result with
    | .success => driverPayload q head s
    | .writeFailure | .unfinished => ⟨head.result.status, some head.accepted, s⟩

/-- The most steps the block can take while the driver waits: what a run that was going on has left, and the two
phases of its own (R130, "at most `2 * NPIX` steps"). -/
def Request.blockSteps (q : Request) (s : State) : Nat := 2 * s.npix + 2 * (q.width.toNat * q.height.toNat)

/-- Steps 3 to 11 of R212, with the input's bytes and an open output. -/
def driverConvert (q : Request) (data : List Byte) (s : State) : Conversion :=
  let turns := driverStart (q.width.setWidth 32) (q.height.setWidth 32) q.ctype (q.obtained data)
  match s.hostRun turns (q.blockSteps s) with
  | .next t => driverFinish q t
  | .fault _ | .refused _ => ⟨.stopped, none, s⟩

/-- The driver sequence (R212), from its check of the type and its opening of the files. DESIGN CHOICE: a missing input is
answered with `ArgumentError` before any file is opened, so also where the output could not be opened; the order of that
check is not stated (R208, 91_not_in_source.md N20; notes/assumptions/30.md). -/
def driver (q : Request) (s : State) : Conversion :=
  if q.checksType ∧ q.ctype ≠ 0#8 then ⟨.failed .argumentError, none, s⟩
  else
    match q.input with
    | .missing => ⟨.failed .argumentError, none, s⟩
    | .unopenable => ⟨.failed .openFailure, none, s⟩
    | .bytes data => if q.outputOpens then driverConvert q data s else ⟨.failed .openFailure, none, s⟩

/-- The three bytes of a triple in the order of the RGB buffer (20_memory.md R66). -/
def Triple.bytes (x : Triple) : List Byte := [x.b, x.g, x.r]

/-- The pipeline as a function of the raw bytes, up to the RGB buffer: "raw bytes → unpacked plane → RGB buffer" (R206),
at depth 10, by the closed forms of Reference.lean. Written apart from the driver, to be compared with it. -/
def convertedRgb (raw : Nat → Byte) (w h : Nat) : List Byte :=
  (List.range (w * h)).flatMap fun p => (demosaicPixel (fun i => BitVec.ofNat 8 (unpackSample raw 10 i)) w p).bytes

end Sys2Proof.Machine
end

