-- ==== Sys2Proof/Safety.lean ====
section
/-! DEFINITION. What claims about runs speak of: the invariant of reachable states (spec/10_state.md R37 and the
start checks of 40_commands.md), runs of many steps, the work still to do, and what a step leaves alone. -/

namespace Sys2Proof.Machine

namespace Safe

/-- The memories are in canonical form and inside their capacities, which are in the range of R5. -/
abbrev MemoryOk (s : State) : Prop :=
  s.caps.legal ∧ s.raw.wf ∧ s.plane.wf ∧ s.rgb.wf
    ∧ s.raw.below s.caps.raw ∧ s.plane.below s.caps.plane ∧ s.rgb.below s.caps.rgb

/-- "`PHASE = HALT` if and only if `ECODE != 0`; `DONE = 1` implies `PHASE = IDLE`; `PATNOP = 1` implies
`DONE = 1`; `CHAIN = 1` implies `PHASE = UNPACK`" (R37). -/
abbrev FlagsOk (s : State) : Prop :=
  (s.phase = .halt ↔ s.ecode ≠ none) ∧ (s.done = true → s.phase = .idle)
    ∧ (s.patnop = true → s.done = true) ∧ (s.chain = true → s.phase = .unpack)

/-- The fault record: 0 while no fault was taken (R121), `FPIX = PIX` after `BOUNDS` and `FPIX = 0` after a start
fault (spec/60_exceptions.md R231 to R239). -/
abbrev RecordOk (s : State) : Prop :=
  (s.ecode = none → s.fpix = 0#32 ∧ s.faddr = 0#32) ∧ (s.ecode = some .bounds → s.fpix = s.pix)
    ∧ (s.ecode ≠ some .bounds → s.fpix = 0#32)

/-- While an unpack phase runs, everything its start checks established still holds (R122, R124, R127). -/
abbrev UnpackOk (s : State) : Prop :=
  s.phase = .unpack →
    s.p < s.npix ∧ s.d ∈ Config.legalDepths ∧ s.rawlen ≤ s.caps.raw ∧ s.npix ≤ s.caps.plane
      ∧ s.rawlen ≤ s.rawLen.toNat
      ∧ (s.chain = true → s.d = 10 ∧ s.pattern = 0#2 ∧ s.rgblen ≤ s.caps.rgb)

/-- While a demosaic phase runs, everything its start checks established still holds (R123, R124, R127). -/
abbrev DemosaicOk (s : State) : Prop :=
  s.phase = .demosaic →
    s.p < s.npix ∧ s.npix ≤ s.caps.plane ∧ s.rgblen ≤ s.caps.rgb ∧ s.pattern = 0#2

/-- The invariant of every reachable state. -/
abbrev Invariant (s : State) : Prop :=
  MemoryOk s ∧ FlagsOk s ∧ RecordOk s ∧ UnpackOk s ∧ DemosaicOk s

/-- The pixels still to process: "at most `NPIX` steps for `UNPACK` and `DEMOSAIC` and at most `2 * NPIX` steps
for `CONVERT`" (R130). -/
def remaining (s : State) : Nat :=
  match s.phase with
  | .unpack => s.npix - s.p + (if s.chain then s.npix else 0)
  | .demosaic => s.npix - s.p
  | .idle | .halt => 0

end Safe

/-- `n` steps, ending at the first fault or refusal. -/
def runSteps : Nat → State → Result
  | 0, s => .next s
  | n + 1, s =>
    match step s with
    | .next t => runSteps n t
    | .fault f => .fault f
    | .refused r => .refused r

/-- Every byte of all three memories reads as before. -/
abbrev KeepsMemory (s t : State) : Prop := ∀ sp k, t.byteAt sp k = s.byteAt sp k

/-- Every byte but the `n` bytes of space `sp` from index `lo` on reads as before. -/
abbrev KeepsMemoryBut (sp : Space) (lo n : Nat) (s t : State) : Prop :=
  ∀ sp' k, (sp' ≠ sp ∨ k < lo ∨ lo + n ≤ k) → t.byteAt sp' k = s.byteAt sp' k

/-- The configuration registers and `CTRL.IE` are as before. -/
abbrev KeepsConfig (s t : State) : Prop :=
  t.ie = s.ie ∧ t.width = s.width ∧ t.height = s.height ∧ t.bitDepth = s.bitDepth ∧ t.pattern = s.pattern
    ∧ t.rawLen = s.rawLen

/-- The fault record and `PATNOP` are as before. -/
abbrev KeepsRecord (s t : State) : Prop :=
  t.ecode = s.ecode ∧ t.fpix = s.fpix ∧ t.faddr = s.faddr ∧ t.patnop = s.patnop

/-- The model's own fields are as before. -/
abbrev KeepsModel (s t : State) : Prop :=
  t.caps = s.caps ∧ t.agenda = s.agenda ∧ t.replies = s.replies

/-- How an unpack step leaves `PIX`, `PHASE`, `CHAIN` and `DONE` (R128). -/
abbrev UnpackStepEnd (s t : State) : Prop :=
  if s.p + 1 = s.npix then
    if s.chain = true then t.chain = false ∧ t.pix = 0#32 ∧ t.phase = .demosaic ∧ t.done = s.done
    else t.chain = false ∧ t.p = s.npix ∧ t.phase = .idle ∧ t.done = true
  else t.chain = s.chain ∧ t.p = s.p + 1 ∧ t.phase = s.phase ∧ t.done = s.done

/-- How a demosaic step leaves `PIX`, `PHASE`, `CHAIN` and `DONE` (R129). -/
abbrev DemosaicStepEnd (s t : State) : Prop :=
  t.p = s.p + 1 ∧ t.chain = s.chain
    ∧ (if s.p + 1 = s.npix then t.phase = .idle ∧ t.done = true else t.phase = s.phase ∧ t.done = s.done)

/-- `t` is `s` after an unpack step that wrote `out` (a number): the byte, the end of the step, and everything
the step leaves alone. -/
abbrev UnpackStepTo (out : Nat) (s t : State) : Prop :=
  (t.byteAt .plane s.p).toNat = out ∧ UnpackStepEnd s t
    ∧ KeepsMemoryBut .plane s.p 1 s t ∧ KeepsConfig s t ∧ KeepsRecord s t ∧ KeepsModel s t

/-- `t` is `s` after a demosaic step that wrote the triple `x`: the three bytes, the end of the step, and
everything the step leaves alone. -/
abbrev DemosaicStepTo (x : Triple) (s t : State) : Prop :=
  t.byteAt .rgb (3 * s.p) = x.b ∧ t.byteAt .rgb (3 * s.p + 1) = x.g ∧ t.byteAt .rgb (3 * s.p + 2) = x.r
    ∧ DemosaicStepEnd s t
    ∧ KeepsMemoryBut .rgb (3 * s.p) 3 s t ∧ KeepsConfig s t ∧ KeepsRecord s t ∧ KeepsModel s t

/-- The state after a fault taken when a command word `v` was presented: the completion flags cleared
(spec/40_commands.md R121), the record `FPIX = 0`, `FADDR = v`, and `PHASE` `HALT` (60_exceptions.md R239). -/
def State.haltedBy (f : FaultCode) (v : Word) (s : State) : State :=
  { s with
    done := false, patnop := false, ecode := some f, fpix := 0#32, faddr := v, chain := false, phase := .halt }

/-- The state after `BOUNDS` was taken at plane index `k`: the record `FPIX = PIX`, `FADDR = k`, and `PHASE` `HALT`;
everything else as it was (spec/60_exceptions.md R236, R239). -/
def State.boundsAt (k : Nat) (s : State) : State :=
  { s with
    ecode := some .bounds, fpix := s.pix, faddr := BitVec.ofNat 32 k, chain := false, phase := .halt }

/-- The triple of pixel `p` in the space `RGB`. -/
def State.tripleAt (s : State) (p : Nat) : Triple :=
  ⟨s.byteAt .rgb (3 * p), s.byteAt .rgb (3 * p + 1), s.byteAt .rgb (3 * p + 2)⟩

/-- The register values of the table of spec/10_state.md R44. -/
abbrev AtReset (t : State) : Prop :=
  t.ie = false ∧ t.width = 0#16 ∧ t.height = 0#16 ∧ t.bitDepth = 10#5 ∧ t.pattern = 0#2 ∧ t.rawLen = 0#32
    ∧ t.phase = .idle ∧ t.pix = 0#32 ∧ t.chain = false ∧ t.done = false ∧ t.patnop = false ∧ t.ecode = none
    ∧ t.fpix = 0#32 ∧ t.faddr = 0#32 ∧ t.statusWord = 0x00000000#32 ∧ t.irq = false

end Sys2Proof.Machine
end

