-- ==== Sys2Proof/Certificates/Slice0/Obligations.lean ====
section
/-! DEFINITION. The statements for the provers. -/

open Sys2Proof Sys2Proof.Machine Sys2Proof.Machine.Safe

/-! Encodings. -/

/-- The encoding of every well-formed instruction decodes to it: no bit of an encoding is dropped (R91, R94, R95). -/
def Obligations.DecodeOfEncodeIsTheInstruction : Prop :=
  ∀ i : Instr, i.wellFormed = true → decode (encode i) = .instr i

/-- Every encoding the decoder accepts stands for one well-formed instruction, whose encoding it is. -/
def Obligations.EncoderInvertsTheDecoder : Prop :=
  ∀ (e : Encoding) (i : Instr), decode e = .instr i → i.wellFormed = true ∧ encode i = e

/-- The four defined command words, each by the `match` and `mask` of the table of R91, and the argument of
`CONVERT`. -/
def Obligations.CommandWordsByMatchAndMask : Prop :=
  ∀ v : Word,
    (decode (.cmdw v) = .instr .unpack ↔ v &&& 0xFFFFFFFF#32 = 0x00000001#32)
    ∧ (decode (.cmdw v) = .instr .demosaic ↔ v &&& 0xFFFFFFFF#32 = 0x00000002#32)
    ∧ (∀ c, decode (.cmdw v) = .instr (.convert c) ↔
        v &&& 0xFFFF00FF#32 = 0x00000003#32 ∧ c = v.toNat / 256 % 256)
    ∧ (decode (.cmdw v) = .instr .srst ↔ v &&& 0xFFFFFFFF#32 = 0x00000004#32)

/-- Which words are illegal, and what presenting one does: `ARG_CMD` in `IDLE` with no buffer touched, ignored in any
other phase (R93). -/
def Obligations.IllegalCommandWords : Prop :=
  ∀ v : Word,
    ((∃ i, decode (.cmdw v) = .instr i) ∨ decode (.cmdw v) = .reject (.illegalCommand v))
    ∧ (decode (.cmdw v) = .reject (.illegalCommand v) ↔
      v.toNat % 256 = 0 ∨ 5 ≤ v.toNat % 256 ∨ v.toNat / 65536 ≠ 0
        ∨ (v.toNat % 256 ≠ 3 ∧ v.toNat / 256 % 256 ≠ 0))
    ∧ ∀ (s : State) (rest : List Turn), s.agenda = .host (.regWrite 1 v) :: rest →
        decode (.cmdw v) = .reject (.illegalCommand v) →
        (s.phase = .idle → step s = .next (State.haltedBy .argCmd v { s with agenda := rest }))
        ∧ (s.phase ≠ .idle → step s = .next { s with agenda := rest })

/-- A few words and selectors, written out from the tables of R91, R94 and R95, decode to their instruction. -/
def Obligations.SampleEncodingsDecode : Prop :=
  decode (.cmdw 0b00000000000000000000000000000001#32) = .instr .unpack
  ∧ decode (.cmdw 0b00000000000000000000000000000010#32) = .instr .demosaic
  ∧ decode (.cmdw 0b00000000000000000000000000000011#32) = .instr (.convert 0)
  ∧ decode (.cmdw 0b00000000000000001010010100000011#32) = .instr (.convert 0xA5)
  ∧ decode (.cmdw 0b00000000000000000000000000000100#32) = .instr .srst
  ∧ decode (.ustep 0b01#2) = .instr .unpkTwo
  ∧ decode (.dstep 0b10#2) = .instr .dmOE
  ∧ decode (.dstep 0b01#2) = .instr .dmEO

/-- Which unpack step runs for pixel `PIX`, that the selector 11 cannot occur, and at which legal depths each of
`UNPK.ONE` and `UNPK.TWO` occurs (R94). -/
def Obligations.UnpackStepSelection : Prop :=
  (∀ s : State, s.phase = .unpack → s.agenda = [] →
    (s.d = 8 → nextWork s = .run .unpkCopy)
    ∧ (s.d ≠ 8 → s.d * s.p % 8 + s.d ≤ 8 → nextWork s = .run .unpkOne)
    ∧ (s.d ≠ 8 → 8 < s.d * s.p % 8 + s.d → nextWork s = .run .unpkTwo))
  ∧ (∀ s : State, s.ustepSelector ≠ 0b11#2)
  ∧ (∀ d ∈ Config.legalDepths, ∀ i, d * i % 8 + d ≤ 8 → d ≠ 8 → d ≤ 7)
  ∧ (∀ d ∈ Config.legalDepths, ∀ i, 9 ≤ d → 8 < d * i % 8 + d)
  ∧ (∀ d ∈ [3, 5, 6, 7], ∃ i, 8 < d * i % 8 + d)
  ∧ (∀ d ∈ [1, 2, 4], ∀ i, d * i % 8 + d ≤ 8)

/-- Which demosaic step runs for pixel `PIX`, by the parities of the 1-based line and column (R95). -/
def Obligations.DemosaicStepSelection : Prop :=
  ∀ s : State, s.phase = .demosaic → s.agenda = [] →
    nextWork s = .run
      (if s.p / s.w % 2 = 0 then (if s.p % s.w % 2 = 0 then .dmOO else .dmOE)
       else (if s.p % s.w % 2 = 0 then .dmEO else .dmEE))

/-! The register interface. -/

/-- A write of a writable register while the block is not busy stores the field and drops the reserved bits; `CTRL`
likewise (R22, R25 to R29). -/
def Obligations.RegisterWritesWhenNotBusy : Prop :=
  ∀ (s : State) (n : Nat) (v : Word) (rest : List Turn),
    s.agenda = .host (.regWrite n v) :: rest → s.phase = .idle ∨ s.phase = .halt →
    (n = 0 → ∃ t, step s = .next t ∧ t = { s with agenda := rest, ie := t.ie } ∧ t.regValue 0 = v &&& 1#32)
    ∧ (n = 3 → ∃ t, step s = .next t ∧ t = { s with agenda := rest, width := t.width }
        ∧ t.regValue 3 = v &&& 0xFFFF#32)
    ∧ (n = 4 → ∃ t, step s = .next t ∧ t = { s with agenda := rest, height := t.height }
        ∧ t.regValue 4 = v &&& 0xFFFF#32)
    ∧ (n = 5 → ∃ t, step s = .next t ∧ t = { s with agenda := rest, bitDepth := t.bitDepth }
        ∧ t.regValue 5 = v &&& 0x1F#32)
    ∧ (n = 6 → ∃ t, step s = .next t ∧ t = { s with agenda := rest, pattern := t.pattern }
        ∧ t.regValue 6 = v &&& 3#32)
    ∧ (n = 7 → ∃ t, step s = .next t ∧ t = { s with agenda := rest, rawLen := t.rawLen }
        ∧ t.regValue 7 = v)

/-- While the block runs a write of a configuration register changes nothing, `CTRL` stays writable, every register
stays readable, and no step of the block changes the configuration (R34). -/
def Obligations.ConfigurationFrozenWhileBusy : Prop :=
  ∀ s : State, s.phase = .unpack ∨ s.phase = .demosaic →
    (∀ (n : Nat) (v : Word) (rest : List Turn), s.agenda = .host (.regWrite n v) :: rest →
      (3 ≤ n ∧ n ≤ 7 → step s = .next { s with agenda := rest })
      ∧ (n = 0 → step s = .next { s with agenda := rest, ie := v.getLsbD 0 }))
    ∧ (∀ (n : Nat) (rest : List Turn), s.agenda = .host (.regRead n) :: rest →
        step s = .next { s with agenda := rest, replies := .reg n (s.regValue n) :: s.replies })
    ∧ (∀ t, s.agenda = [] ∨ (∃ rest, s.agenda = .block :: rest) → step s = .next t → KeepsConfig s t)

/-- Register numbers 11 and above read 0 and ignore writes, in every phase (R33); the read-only registers ignore
writes, and `CMD` reads 0 (R23, R24, R30 to R32). -/
def Obligations.AbsentAndReadOnlyRegisters : Prop :=
  ∀ (s : State) (n : Nat),
    (∀ (v : Word) (rest : List Turn), s.agenda = .host (.regWrite n v) :: rest →
      11 ≤ n ∨ n = 2 ∨ n = 8 ∨ n = 9 ∨ n = 10 → step s = .next { s with agenda := rest })
    ∧ (∀ rest : List Turn, s.agenda = .host (.regRead n) :: rest → 11 ≤ n ∨ n = 1 →
        step s = .next { s with agenda := rest, replies := .reg n 0#32 :: s.replies })

/-- What a read of each register returns, and that it changes nothing (the table of R21; R22 to R32). -/
def Obligations.RegisterReadReturnsItsValue : Prop :=
  ∀ (s : State) (n : Nat) (rest : List Turn), s.agenda = .host (.regRead n) :: rest →
    ∃ v, step s = .next { s with agenda := rest, replies := .reg n v :: s.replies }
      ∧ (n = 0 → v.toNat = s.ie.toNat) ∧ (n = 2 → v = s.statusWord)
      ∧ (n = 3 → v.toNat = s.w) ∧ (n = 4 → v.toNat = s.h) ∧ (n = 5 → v.toNat = s.d)
      ∧ (n = 6 → v.toNat = s.pattern.toNat) ∧ (n = 7 → v = s.rawLen) ∧ (n = 8 → v = s.pix)
      ∧ (n = 9 → v = s.fpix) ∧ (n = 10 → v = s.faddr)

/-- The fields of the `STATUS` word, its reset value, that a read has no side effect and a write is ignored (R24). -/
def Obligations.StatusWordLayout : Prop :=
  (∀ s : State,
    (s.statusWord.getLsbD 0 = true ↔ s.phase = .unpack ∨ s.phase = .demosaic)
    ∧ s.statusWord.getLsbD 1 = s.done
    ∧ (s.statusWord.getLsbD 2 = true ↔ s.phase = .halt)
    ∧ s.statusWord.getLsbD 3 = s.patnop
    ∧ s.statusWord.extractLsb' 4 2 = s.phase.code
    ∧ s.statusWord.extractLsb' 6 2 = 0#2
    ∧ s.statusWord.extractLsb' 8 4 = ecodeBits s.ecode
    ∧ s.statusWord.extractLsb' 12 20 = 0#20)
  ∧ (Phase.idle.code = 0#2 ∧ Phase.unpack.code = 1#2 ∧ Phase.demosaic.code = 2#2 ∧ Phase.halt.code = 3#2)
  ∧ (ecodeBits none = 0#4 ∧ ecodeBits (some .argCmd) = 1#4 ∧ ecodeBits (some .argCfg) = 2#4
    ∧ ecodeBits (some .alloc) = 3#4 ∧ ecodeBits (some .shortRead) = 4#4 ∧ ecodeBits (some .bounds) = 5#4)
  ∧ State.reset.statusWord = 0x00000000#32
  ∧ (∀ (s : State) (rest : List Turn), s.agenda = .host (.regRead 2) :: rest →
      step s = .next { s with agenda := rest, replies := .reg 2 s.statusWord :: s.replies })
  ∧ (∀ (s : State) (v : Word) (rest : List Turn), s.agenda = .host (.regWrite 2 v) :: rest →
      step s = .next { s with agenda := rest })

/-- The `STATUS` words a host can read, by phase, in every state that meets the invariant (R24, R37). -/
def Obligations.StatusWordsThatCanBeRead : Prop :=
  ∀ s : State, Invariant s →
    (s.phase = .idle → s.statusWord = 0x00000000#32 ∨ s.statusWord = 0x00000002#32 ∨ s.statusWord = 0x0000000A#32)
    ∧ (s.phase = .unpack → s.statusWord = 0x00000011#32)
    ∧ (s.phase = .demosaic → s.statusWord = 0x00000021#32)
    ∧ (s.phase = .halt → s.statusWord = 0x00000134#32 ∨ s.statusWord = 0x00000234#32
        ∨ s.statusWord = 0x00000334#32 ∨ s.statusWord = 0x00000434#32 ∨ s.statusWord = 0x00000534#32)

/-- The interrupt level, and its value at reset (R43). -/
def Obligations.InterruptLevel : Prop :=
  (∀ s : State, s.irq = true ↔ s.ie = true ∧ (s.done = true ∨ s.phase = .halt))
  ∧ State.reset.irq = false

/-- No interrupt is requested while the block is busy (the inference of R243 from R37); and a sample of the level
returns it and changes nothing of the hardware (the sample as a host access is the model's choice,
notes/assumptions/20.md). -/
def Obligations.InterruptIsLowWhileBusy : Prop :=
  (∀ s : State, Invariant s → s.phase = .unpack ∨ s.phase = .demosaic → s.irq = false)
  ∧ (∀ (s : State) (rest : List Turn), s.agenda = .host .sampleIrq :: rest →
      step s = .next { s with agenda := rest, replies := .irq s.irq :: s.replies })

/-- After hardware reset, and after `SRST` in every phase, every register state element has its reset value and no
byte of a memory changes (R44). After power-up every byte of a memory is the free value of its index (R45, as read in
notes/assumptions/1.md and 22.md, DEDUCED); the hardware reset is a host turn between two steps
(notes/assumptions/19.md, DESIGN CHOICE). -/
def Obligations.ResetValuesOfEveryRegister : Prop :=
  (∀ s : State, ∃ t, exec .srst s = .next t ∧ AtReset t ∧ KeepsMemory s t ∧ KeepsModel s t)
  ∧ (∀ (s : State) (rest : List Turn), s.agenda = .host .hardReset :: rest →
      ∃ t, step s = .next t ∧ AtReset t ∧ KeepsMemory s t ∧ t.caps = s.caps ∧ t.agenda = rest
        ∧ t.replies = s.replies)
  ∧ AtReset State.reset
  ∧ (∀ sp k, State.reset.byteAt sp k = Config.powerUpByte sp k)

/-- A buffer access of the host: the byte read or stored while it owns the buffers, refused while the block does and
at an index that names no byte (R69, R70, 93_implementation_defined.md U1, U7). -/
def Obligations.HostBufferAccessesFollowOwnership : Prop :=
  ∀ (s : State) (sp : Space) (k : Nat) (b : Byte) (rest : List Turn),
    (s.agenda = .host (.bufRead sp k) :: rest →
      (s.busy = false → k < s.cap sp →
        step s = .next { s with agenda := rest, replies := .buf sp k (s.byteAt sp k) :: s.replies })
      ∧ (s.busy = true → step s = .refused (.hostBufferWhileBusy sp k))
      ∧ (s.busy = false → s.cap sp ≤ k → step s = .refused (.hostBufferPastCapacity sp k)))
    ∧ (s.agenda = .host (.bufWrite sp k b) :: rest →
      (s.busy = false → k < s.cap sp →
        ∃ t, step s = .next t ∧ t.byteAt sp k = b ∧ KeepsMemoryBut sp k 1 s t
          ∧ t = { s with agenda := rest, raw := t.raw, plane := t.plane, rgb := t.rgb })
      ∧ (s.busy = true → step s = .refused (.hostBufferWhileBusy sp k))
      ∧ (s.busy = false → s.cap sp ≤ k → step s = .refused (.hostBufferPastCapacity sp k)))

/-! Commands. -/

/-- What a write of `v` to `CMD` does, by phase and word: `SRST` in every phase; any other word dropped outside
`IDLE`; in `IDLE` the completion flags cleared, then the command (R120). -/
def Obligations.CommandWordPresented : Prop :=
  ∀ (s : State) (v : Word) (rest : List Turn), s.agenda = .host (.regWrite 1 v) :: rest →
    let u : State := { s with agenda := rest }
    (v = 0x00000004#32 → step s = exec .srst u)
    ∧ (v ≠ 0x00000004#32 → s.phase ≠ .idle → step s = .next u)
    ∧ (s.phase = .idle →
        let cleared : State := { u with done := false, patnop := false }
        (v = 0x00000001#32 → step s = exec .unpack cleared)
        ∧ (v = 0x00000002#32 → step s = exec .demosaic cleared)
        ∧ (v &&& 0xFFFF00FF#32 = 0x00000003#32 → step s = exec (.convert (v.toNat / 256 % 256)) cleared)
        ∧ (v ≠ 0x00000001#32 → v ≠ 0x00000002#32 → v ≠ 0x00000004#32 → v &&& 0xFFFF00FF#32 ≠ 0x00000003#32 →
            step s = .next (State.haltedBy .argCmd v u)))

/-- `UNPACK` in `IDLE` with every start check passing starts the unpack phase (R122). -/
def Obligations.UnpackStarts : Prop :=
  ∀ s : State, s.phase = .idle → s.w ≠ 0 → s.h ≠ 0 → s.d ∈ Config.legalDepths →
    s.rawlen ≤ s.caps.raw → s.npix ≤ s.caps.plane → s.rawlen ≤ s.rawLen.toNat →
    exec .unpack s
      = .next { s with done := false, patnop := false, chain := false, pix := 0#32, phase := .unpack }

/-- `DEMOSAIC` in `IDLE` with every start check passing: with `BGGR` it starts the demosaic phase; with any other
pattern it completes at once as a no-op, with `PATNOP` set and no buffer changed (R123, R179). -/
def Obligations.DemosaicStarts : Prop :=
  ∀ s : State, s.phase = .idle → s.w ≠ 0 → s.h ≠ 0 → s.npix ≤ s.caps.plane → s.rgblen ≤ s.caps.rgb →
    (s.pattern = 0#2 →
      exec .demosaic s = .next { s with done := false, patnop := false, pix := 0#32, phase := .demosaic })
    ∧ (s.pattern ≠ 0#2 → exec .demosaic s = .next { s with done := true, patnop := true, pix := 0#32 })

/-- `CONVERT 0` in `IDLE` with every start check passing fixes depth and pattern and starts the unpack phase with
`CHAIN` set (R124). -/
def Obligations.ConvertStarts : Prop :=
  ∀ s : State, s.phase = .idle → s.w ≠ 0 → s.h ≠ 0 →
    frameBytes s.npix 10 ≤ s.caps.raw → s.npix ≤ s.caps.plane → s.rgblen ≤ s.caps.rgb →
    frameBytes s.npix 10 ≤ s.rawLen.toNat →
    exec (.convert 0) s
      = .next { s with
          done := false, patnop := false, bitDepth := 10#5, pattern := 0#2, chain := true, pix := 0#32,
          phase := .unpack }

/-- The start checks of each command in their fixed order, the first that fails deciding the fault (R238, with the
checks of R122 to R124); a `CONVERT` whose type check passed keeps its overwrite of depth and pattern (R239). -/
def Obligations.StartChecksInOrder : Prop :=
  ∀ s : State, s.phase = .idle →
    (s.w = 0 ∨ s.h = 0 → exec .unpack s = .next (s.haltedBy .argCfg 1#32)
        ∧ exec .demosaic s = .next (s.haltedBy .argCfg 2#32)
        ∧ exec (.convert 0) s
            = .next (State.haltedBy .argCfg 3#32 { s with bitDepth := 10#5, pattern := 0#2 }))
    ∧ (∀ c, c ≠ 0 → c < 256 → exec (.convert c) s = .next (s.haltedBy .argCmd (BitVec.ofNat 32 (3 + 256 * c))))
    ∧ (s.w ≠ 0 → s.h ≠ 0 →
        (s.d ∉ Config.legalDepths → exec .unpack s = .next (s.haltedBy .argCfg 1#32))
        ∧ (s.d ∈ Config.legalDepths → s.caps.raw < s.rawlen ∨ s.caps.plane < s.npix →
            exec .unpack s = .next (s.haltedBy .alloc 1#32))
        ∧ (s.d ∈ Config.legalDepths → s.rawlen ≤ s.caps.raw → s.npix ≤ s.caps.plane →
            s.rawLen.toNat < s.rawlen → exec .unpack s = .next (s.haltedBy .shortRead 1#32))
        ∧ (s.caps.plane < s.npix ∨ s.caps.rgb < s.rgblen →
            exec .demosaic s = .next (s.haltedBy .alloc 2#32))
        ∧ (s.caps.raw < frameBytes s.npix 10 ∨ s.caps.plane < s.npix ∨ s.caps.rgb < s.rgblen →
            exec (.convert 0) s
              = .next (State.haltedBy .alloc 3#32 { s with bitDepth := 10#5, pattern := 0#2 }))
        ∧ (frameBytes s.npix 10 ≤ s.caps.raw → s.npix ≤ s.caps.plane → s.rgblen ≤ s.caps.rgb →
            s.rawLen.toNat < frameBytes s.npix 10 →
            exec (.convert 0) s
              = .next (State.haltedBy .shortRead 3#32 { s with bitDepth := 10#5, pattern := 0#2 })))

/-- What a command leaves alone: every byte of memory, the registers it is not said to write, and the fault record
unless it faults; `SRST` leaves the memories alone (R60, R122 to R125, R239). -/
def Obligations.CommandFrame : Prop :=
  ∀ s : State,
    (∀ i ∈ [Instr.unpack, Instr.demosaic], ∃ t, exec i s = .next t ∧ KeepsMemory s t ∧ KeepsConfig s t
      ∧ KeepsModel s t ∧ (t.phase ≠ .halt → t.ecode = s.ecode ∧ t.fpix = s.fpix ∧ t.faddr = s.faddr))
    ∧ (∀ c, ∃ t, exec (.convert c) s = .next t ∧ KeepsMemory s t ∧ KeepsModel s t
        ∧ t.ie = s.ie ∧ t.width = s.width ∧ t.height = s.height ∧ t.rawLen = s.rawLen
        ∧ (t.phase ≠ .halt → t.ecode = s.ecode ∧ t.fpix = s.fpix ∧ t.faddr = s.faddr))
    ∧ (∃ t, exec .srst s = .next t ∧ KeepsMemory s t ∧ KeepsModel s t)

/-! The unpack steps. -/

/-- `UNPK.COPY` stores `RAW[PIX]` at `PLANE[PIX]`, ends the step, and changes nothing else (R152, R156, R128). -/
def Obligations.UnpkCopyStoresTheRawByte : Prop :=
  ∀ s : State, s.p < s.npix → s.p < s.caps.raw → s.p < s.caps.plane →
    ∃ t, exec .unpkCopy s = .next t ∧ UnpackStepTo (s.byteAt .raw s.p).toNat s t

/-- `UNPK.ONE` stores the scaled low `D` bits of the shifted raw byte, ends the step, and changes nothing else
(R150, R151, R153, R155, R156, R128). -/
def Obligations.UnpkOneStoresTheScaledField : Prop :=
  ∀ s : State, s.p < s.npix → s.p < s.caps.plane → s.d * s.p / 8 < s.caps.raw →
    (s.d * s.p / 8 + 1 < s.rawlen → s.d * s.p / 8 + 1 < s.caps.raw) →
    s.d * s.p % 8 + s.d ≤ 8 →
    ∃ t, exec .unpkOne s = .next t
      ∧ UnpackStepTo
          ((s.byteAt .raw (s.d * s.p / 8)).toNat / 2 ^ (s.d * s.p % 8) % 2 ^ s.d * 256 / 2 ^ s.d) s t

/-- `UNPK.TWO` stores the scaled join of the high bits of one raw byte and the low bits of the next, ends the step, and
changes nothing else (R150, R151, R154, R155, R156, R128). -/
def Obligations.UnpkTwoStoresTheJoinedSample : Prop :=
  ∀ s : State, s.p < s.npix → s.p < s.caps.plane → s.d ∈ Config.legalDepths →
    8 < s.d * s.p % 8 + s.d → s.d * s.p / 8 + 1 < s.rawlen → s.d * s.p / 8 + 1 < s.caps.raw →
    ∃ t, exec .unpkTwo s = .next t
      ∧ UnpackStepTo
          (((s.byteAt .raw (s.d * s.p / 8)).toNat / 2 ^ (s.d * s.p % 8)
            + (s.byteAt .raw (s.d * s.p / 8 + 1)).toNat % 2 ^ (s.d - (8 - s.d * s.p % 8))
              * 2 ^ (8 - s.d * s.p % 8)) * 256 / 2 ^ s.d) s t

/-- Whatever unpack step the selector names for pixel `PIX` of a frame that passed its start checks, it writes
`unpack_sample(RAW, D, PIX)` (R158). -/
def Obligations.UnpackStepsComputeTheSample : Prop :=
  ∀ (s : State) (i : Instr), s.p < s.npix → s.d ∈ Config.legalDepths → s.rawlen ≤ s.caps.raw →
    s.npix ≤ s.caps.plane → decode (.ustep s.ustepSelector) = .instr i →
    ∃ t, exec i s = .next t ∧ UnpackStepTo (unpackSample (s.byteAt .raw) s.d s.p) s t

/-- The scaling law of a sample of a legal depth, and its forms as a shift (R155). -/
def Obligations.ScalingIsAShift : Prop :=
  ∀ d ∈ Config.legalDepths, ∀ v, v < 2 ^ d →
    (scale d v).toNat = v * 256 / 2 ^ d ∧ v * 256 / 2 ^ d ≤ 255
    ∧ (8 ≤ d → (scale d v).toNat = v >>> (d - 8)) ∧ (d ≤ 8 → (scale d v).toNat = v <<< (8 - d))
    ∧ (v = 2 ^ d - 1 → (8 ≤ d → scale d v = 0xFF#8) ∧ (d < 8 → (scale d v).toNat = 256 - 2 ^ (8 - d)))

/-- The legal depths are the depths of 1 to 31 bits at which no sample needs a third byte (R157). -/
def Obligations.LegalDepthsNeedNoThirdByte : Prop :=
  ∀ d, d < 32 → (d ∈ Config.legalDepths ↔ 1 ≤ d ∧ ∀ i, d * i % 8 + d ≤ 16)

/-- The raw reads of an unpack step stay inside the frame: the first always, the second whenever the sample spans
(R150, R154). -/
def Obligations.RawReadsStayInsideTheFrame : Prop :=
  ∀ d ∈ Config.legalDepths, ∀ n i, i < n →
    byteOff d i < frameBytes n d ∧ (8 < shiftOf d i + d → byteOff d i + 1 < frameBytes n d)

/-! The demosaic steps. -/

/-- `DM.OO` writes its triple from one line down and one column right, one column right, and the current pixel
(R170, R172, R177, R129). -/
def Obligations.DmOOWritesItsTriple : Prop :=
  ∀ s : State, s.p < s.npix → s.npix ≤ s.caps.plane → s.rgblen ≤ s.caps.rgb →
    ∀ line row, line = s.p / s.w + 1 → row = s.p % s.w + 1 → s.w * line + row < s.npix →
    ∃ t, exec .dmOO s = .next t
      ∧ DemosaicStepTo
          ⟨s.byteAt .plane (s.w * line + row), s.byteAt .plane (s.w * (line - 1) + row),
            s.byteAt .plane (s.w * (line - 1) + row - 1)⟩ s t

/-- `DM.OE` writes its triple, its green the truncating average of two plane bytes (R170, R173, R176, R177, R129). -/
def Obligations.DmOEWritesItsTriple : Prop :=
  ∀ s : State, s.p < s.npix → s.npix ≤ s.caps.plane → s.rgblen ≤ s.caps.rgb →
    ∀ line row, line = s.p / s.w + 1 → row = s.p % s.w + 1 → 2 ≤ row → s.w * line + row - 1 < s.npix →
    ∃ t, exec .dmOE s = .next t
      ∧ DemosaicStepTo
          ⟨s.byteAt .plane (s.w * line + row - 1),
            BitVec.ofNat 8 (((s.byteAt .plane (s.w * (line - 1) + row - 1)).toNat
              + (s.byteAt .plane (s.w * line + row - 2)).toNat) / 2),
            s.byteAt .plane (s.w * (line - 1) + row - 2)⟩ s t

/-- `DM.EO` writes its triple (R170, R174, R177, R129). -/
def Obligations.DmEOWritesItsTriple : Prop :=
  ∀ s : State, s.p < s.npix → s.npix ≤ s.caps.plane → s.rgblen ≤ s.caps.rgb →
    ∀ line row, line = s.p / s.w + 1 → row = s.p % s.w + 1 → 2 ≤ line → s.w * (line - 1) + row < s.npix →
    ∃ t, exec .dmEO s = .next t
      ∧ DemosaicStepTo
          ⟨s.byteAt .plane (s.w * (line - 1) + row), s.byteAt .plane (s.w * (line - 1) + row - 1),
            s.byteAt .plane (s.w * (line - 2) + row - 1)⟩ s t

/-- `DM.EE` writes its triple, and never faults (R170, R175, R177, R129). -/
def Obligations.DmEEWritesItsTriple : Prop :=
  ∀ s : State, s.p < s.npix → s.npix ≤ s.caps.plane → s.rgblen ≤ s.caps.rgb →
    ∀ line row, line = s.p / s.w + 1 → row = s.p % s.w + 1 → 2 ≤ line → 2 ≤ row →
    ∃ t, exec .dmEE s = .next t
      ∧ DemosaicStepTo
          ⟨s.byteAt .plane (s.w * (line - 1) + row - 1), s.byteAt .plane (s.w * (line - 1) + row - 2),
            s.byteAt .plane (s.w * (line - 2) + row - 2)⟩ s t

/-- A demosaic step whose B index is at or beyond `NPIX` takes `BOUNDS` on its first read, with the record
`FPIX = PIX`, `FADDR = iB`, and writes nothing; the index fits the register (R171, R178, R236, R239). -/
def Obligations.DemosaicStepTakesBounds : Prop :=
  ∀ (s : State) (line row : Nat), line = s.p / s.w + 1 → row = s.p % s.w + 1 →
    (s.npix ≤ s.w * line + row → exec .dmOO s = .next (s.boundsAt (s.w * line + row)))
    ∧ (s.npix ≤ s.w * line + row - 1 → exec .dmOE s = .next (s.boundsAt (s.w * line + row - 1)))
    ∧ (s.npix ≤ s.w * (line - 1) + row → exec .dmEO s = .next (s.boundsAt (s.w * (line - 1) + row)))
    ∧ (s.p < s.npix → s.w * line + row < 2 ^ 32)

/-- Whatever demosaic step the selector names for pixel `PIX`, it writes `demosaic_pixel(PLANE, W, PIX)` when its
largest index is in range, and otherwise takes `BOUNDS` with that index (R180, R182). -/
def Obligations.DemosaicStepsComputeThePixel : Prop :=
  ∀ (s : State) (i : Instr), s.p < s.npix → s.npix ≤ s.caps.plane → s.rgblen ≤ s.caps.rgb →
    decode (.dstep s.dstepSelector) = .instr i →
    (largestIndex s.w s.p < s.npix →
      ∃ t, exec i s = .next t ∧ DemosaicStepTo (demosaicPixel (s.byteAt .plane) s.w s.p) s t)
    ∧ (s.npix ≤ largestIndex s.w s.p → exec i s = .next (s.boundsAt (largestIndex s.w s.p)))

/-- The green average: the exact sum halved, truncating, in 9 bits; commutative (R176). -/
def Obligations.GreenAverageTruncates : Prop :=
  ∀ g1 g2 : Byte,
    (average g1 g2).toNat = (g1.toNat + g2.toNat) / 2
    ∧ (average g1 g2).setWidth 9 = (g1.setWidth 9 + g2.setWidth 9) >>> 1
    ∧ average g1 g2 = average g2 g1

/-! The whole machine. -/

/-- Every step keeps the invariant of reachable states (R37, R75, R127). -/
def Obligations.StepKeepsTheInvariant : Prop :=
  ∀ s t : State, Invariant s → step s = .next t → Invariant t

/-- The machine after reset meets the invariant (R44; with the capacities of notes/assumptions/3.md). -/
def Obligations.ResetMeetsTheInvariant : Prop := Invariant State.reset

/-- No state that meets the invariant faults in the model, and only a host access to a buffer is refused. So the block
makes no access at or past a capacity and meets no selector 11: that these two would stop is the model's choice
(notes/assumptions/10.md and 11.md), that the two host accesses are refused is how it reads U1 and U7
(notes/assumptions/8.md and 9.md). It follows from the bounds of R75, which are tighter, and from R94 and R157. -/
def Obligations.InvariantExcludesFaults : Prop :=
  ∀ s : State, Invariant s →
    (∀ f, step s ≠ .fault f)
    ∧ (∀ r, step s = .refused r → ∃ sp k rest,
        s.agenda = .host (.bufRead sp k) :: rest ∨ ∃ b, s.agenda = .host (.bufWrite sp k b) :: rest)

/-- A busy block whose turn it is takes a step, which increments `PIX` or changes the phase, and less is left to do
(R130). -/
def Obligations.BlockStepMakesProgress : Prop :=
  ∀ s : State, Invariant s → s.busy = true → s.agenda = [] →
    ∃ t, step s = .next t ∧ (t.p = s.p + 1 ∨ t.phase ≠ s.phase) ∧ remaining t < remaining s

/-- Every run ends after at most the number of steps of R130: `NPIX` for `UNPACK` and `DEMOSAIC`, `2 * NPIX` for
`CONVERT`. -/
def Obligations.EveryRunEnds : Prop :=
  ∀ s : State, Invariant s → s.busy = true → s.agenda = [] →
    ∃ n t, n ≤ remaining s ∧ runSteps n s = .next t ∧ t.busy = false ∧ Invariant t

/-- `PIX` never decreases within one phase of a busy block, whatever the host does (R30). -/
def Obligations.PixNeverDecreasesWithinAPhase : Prop :=
  ∀ s t : State, Invariant s → s.busy = true → step s = .next t → t.phase = s.phase → s.p ≤ t.p

/-- The only ways out of `HALT` are `SRST` and hardware reset; both put every register at its reset value, the fault
record among them, and leave the buffers; every other step keeps the phase and the fault record (R242). -/
def Obligations.OnlyResetLeavesHalt : Prop :=
  ∀ s t : State, s.phase = .halt → step s = .next t →
    ((∃ rest, s.agenda = .host (.regWrite 1 0x00000004#32) :: rest ∨ s.agenda = .host .hardReset :: rest)
        ∧ AtReset t ∧ KeepsMemory s t)
      ∨ (t.phase = .halt ∧ t.ecode = s.ecode ∧ t.fpix = s.fpix ∧ t.faddr = s.faddr ∧ t.pix = s.pix)

/-- No instruction writes `RAW`; the unpack steps write no byte of `RGB` and the demosaic steps none of `PLANE`
(R40 to R42, R60). -/
def Obligations.InstructionsKeepTheirSpaces : Prop :=
  ∀ (i : Instr) (s t : State), exec i s = .next t →
    (∀ k, t.byteAt .raw k = s.byteAt .raw k)
    ∧ (i ∈ [Instr.unpkCopy, Instr.unpkOne, Instr.unpkTwo] → ∀ k, t.byteAt .rgb k = s.byteAt .rgb k)
    ∧ (i ∈ [Instr.dmOO, Instr.dmOE, Instr.dmEO, Instr.dmEE] → ∀ k, t.byteAt .plane k = s.byteAt .plane k)

/-- No step changes the capacities, which are parameters and no state of the hardware (R5, R20; the field is the
model's own, notes/assumptions/3.md). -/
def Obligations.CapacitiesNeverChange : Prop :=
  ∀ s t : State, step s = .next t → t.caps = s.caps

/-- A step runs the decoded instruction: the command word the host presents, or the step kind the block's selector
names; and a turn given to a block with no step changes nothing but the agenda (R120, R127; the agenda is the
model's own, notes/assumptions/4.md). -/
def Obligations.StepRunsTheDecodedInstruction : Prop :=
  ∀ (s : State) (i : Instr),
    (∀ (v : Word) (rest : List Turn), s.agenda = .host (.regWrite 1 v) :: rest →
      decode (.cmdw v) = .instr i → step s = exec i { s with agenda := rest })
    ∧ (s.agenda = [] ∨ (∃ rest, s.agenda = .block :: rest) →
      (s.phase = .unpack → decode (.ustep s.ustepSelector) = .instr i →
        step s = exec i { s with agenda := s.agenda.tail })
      ∧ (s.phase = .demosaic → decode (.dstep s.dstepSelector) = .instr i →
        step s = exec i { s with agenda := s.agenda.tail })
      ∧ (s.phase = .idle ∨ s.phase = .halt → step s = .next { s with agenda := s.agenda.tail }))

/-- `withFetchWord` makes the table's row the very next thing that runs (the model's own convention,
notes/assumptions/7.md and 14.md). -/
def Obligations.FetchWordRunsTheTableRow : Prop :=
  ∀ (s : State) (nbits w : Nat) (i : Instr), decodeTableWord nbits w = some i →
    (nbits = 32 → step (s.withFetchWord nbits w) = exec i s)
    ∧ ∃ u : State, step (s.withFetchWord nbits w) = exec i u ∧ KeepsMemory s u ∧ KeepsModel s u

/-! Whole runs. -/

/-- A run of `UNPACK` takes `NPIX` steps after its acceptance and leaves `PLANE[i] = unpack_sample(RAW, D, i)` for every
`i < NPIX`, every other byte as it was (R122). -/
def Obligations.UnpackRunLeavesThePlane : Prop :=
  ∀ s : State, s.phase = .idle → s.agenda = [.host (.regWrite 1 0x00000001#32)] →
    s.w ≠ 0 → s.h ≠ 0 → s.d ∈ Config.legalDepths →
    s.rawlen ≤ s.caps.raw → s.npix ≤ s.caps.plane → s.rawlen ≤ s.rawLen.toNat →
    ∃ t, runSteps (1 + s.npix) s = .next t
      ∧ t.phase = .idle ∧ t.done = true ∧ t.patnop = false ∧ t.p = s.npix
      ∧ (∀ i < s.npix, (t.byteAt .plane i).toNat = unpackSample (s.byteAt .raw) s.d i)
      ∧ KeepsMemoryBut .plane 0 s.npix s t ∧ KeepsConfig s t

/-- `UNPACK` inverts the packing of R63: where the host packed samples `v i` of `D` bits, the run leaves
`PLANE[i] = v i * 256 / 2^D` (R63, R158). -/
def Obligations.UnpackInvertsThePacking : Prop :=
  ∀ (s : State) (v : Nat → Nat), s.phase = .idle → s.agenda = [.host (.regWrite 1 0x00000001#32)] →
    s.w ≠ 0 → s.h ≠ 0 → s.d ∈ Config.legalDepths →
    s.rawlen ≤ s.caps.raw → s.npix ≤ s.caps.plane → s.rawlen ≤ s.rawLen.toNat →
    (∀ i < s.npix, v i < 2 ^ s.d ∧ ∀ k < s.d, rawBit (s.byteAt .raw) (s.d * i + k) = v i / 2 ^ k % 2) →
    ∃ t, runSteps (1 + s.npix) s = .next t
      ∧ ∀ i < s.npix, (t.byteAt .plane i).toNat = v i * 256 / 2 ^ s.d

/-- The bits of the last raw byte that belong to no sample, and the bytes past the frame, never reach the plane: two
machines that agree on the bits of the samples write the same byte (R64). -/
def Obligations.PaddingBitsNeverReachThePlane : Prop :=
  ∀ (s : State) (m : Memory) (i : Instr), s.p < s.npix → s.d ∈ Config.legalDepths →
    s.rawlen ≤ s.caps.raw → s.npix ≤ s.caps.plane → decode (.ustep s.ustepSelector) = .instr i →
    (∀ g < s.d * s.npix,
      rawBit (s.byteAt .raw) g = rawBit (({ s with raw := m } : State).byteAt .raw) g) →
    ∃ t u, exec i s = .next t ∧ exec i { s with raw := m } = .next u ∧ t.plane = u.plane

/-- A run of `DEMOSAIC` over a frame with even dimensions takes `NPIX` steps after its acceptance and leaves
`RGB[3p .. 3p+2] = demosaic_pixel(PLANE, W, p)` for every pixel, every other byte as it was (R123, R180, R182). -/
def Obligations.DemosaicRunOfAnEvenFrame : Prop :=
  ∀ s : State, s.phase = .idle → s.agenda = [.host (.regWrite 1 0x00000002#32)] →
    s.w ≠ 0 → s.h ≠ 0 → s.w % 2 = 0 → s.h % 2 = 0 → s.pattern = 0#2 →
    s.npix ≤ s.caps.plane → s.rgblen ≤ s.caps.rgb →
    ∃ t, runSteps (1 + s.npix) s = .next t
      ∧ t.phase = .idle ∧ t.done = true ∧ t.patnop = false ∧ t.p = s.npix
      ∧ (∀ p < s.npix, t.tripleAt p = demosaicPixel (s.byteAt .plane) s.w p)
      ∧ KeepsMemoryBut .rgb 0 s.rgblen s t ∧ KeepsConfig s t

/-- A run of `DEMOSAIC` over a frame with an odd dimension always ends in `BOUNDS`, at a pixel known in advance; the
pixels before it are written and the rest of `RGB` keeps its bytes (R180 (d), R236, R240, R265). -/
def Obligations.DemosaicRunOfAnOddFrameFaults : Prop :=
  ∀ s : State, s.phase = .idle → s.agenda = [.host (.regWrite 1 0x00000002#32)] →
    s.w ≠ 0 → s.h ≠ 0 → s.w % 2 = 1 ∨ s.h % 2 = 1 → s.pattern = 0#2 →
    s.npix ≤ s.caps.plane → s.rgblen ≤ s.caps.rgb →
    ∀ fpix faddr,
      fpix = (if s.h % 2 = 1 then s.w * (s.h - 1) else s.w * (s.h - 1) - 1) →
      faddr = (if s.h % 2 = 1 then s.w * s.h + 1 else s.w * s.h) →
    ∃ t, runSteps (1 + (fpix + 1)) s = .next t
      ∧ t.phase = .halt ∧ t.ecode = some .bounds ∧ t.fpix.toNat = fpix ∧ t.faddr.toNat = faddr ∧ t.p = fpix
      ∧ t.done = false
      ∧ (∀ p < fpix, t.tripleAt p = demosaicPixel (s.byteAt .plane) s.w p)
      ∧ KeepsMemoryBut .rgb 0 (3 * fpix) s t

/-- A run of `CONVERT 0` over a frame with even dimensions takes `2 * NPIX` steps after its acceptance and has the
effect of `UNPACK` at depth 10 followed by `DEMOSAIC` of the plane it left (R124). -/
def Obligations.ConvertRunOfAnEvenFrame : Prop :=
  ∀ s : State, s.phase = .idle → s.agenda = [.host (.regWrite 1 0x00000003#32)] →
    s.w ≠ 0 → s.h ≠ 0 → s.w % 2 = 0 → s.h % 2 = 0 →
    frameBytes s.npix 10 ≤ s.caps.raw → s.npix ≤ s.caps.plane → s.rgblen ≤ s.caps.rgb →
    frameBytes s.npix 10 ≤ s.rawLen.toNat →
    ∃ t, runSteps (1 + 2 * s.npix) s = .next t
      ∧ t.phase = .idle ∧ t.done = true ∧ t.patnop = false ∧ t.chain = false ∧ t.d = 10 ∧ t.pattern = 0#2
      ∧ (∀ i < s.npix, (t.byteAt .plane i).toNat = unpackSample (s.byteAt .raw) 10 i)
      ∧ (∀ p < s.npix, t.tripleAt p
          = demosaicPixel (fun i => BitVec.ofNat 8 (unpackSample (s.byteAt .raw) 10 i)) s.w p)
      ∧ (∀ k, t.byteAt .raw k = s.byteAt .raw k)

/-- For even dimensions all four pixels of a 2 by 2 cell get the red of its top-left and the blue of its bottom-right
sample, and the greens that R181 lists. -/
def Obligations.CellColoursOfAnEvenFrame : Prop :=
  ∀ s : State, s.phase = .idle → s.agenda = [.host (.regWrite 1 0x00000002#32)] →
    s.w ≠ 0 → s.h ≠ 0 → s.w % 2 = 0 → s.h % 2 = 0 → s.pattern = 0#2 →
    s.npix ≤ s.caps.plane → s.rgblen ≤ s.caps.rgb →
    ∃ t, runSteps (1 + s.npix) s = .next t
      ∧ ∀ x y p, x < s.w / 2 → y < s.h / 2 → p = 2 * y * s.w + 2 * x →
        ∀ a b c2 d, a = s.byteAt .plane p → b = s.byteAt .plane (p + 1) → c2 = s.byteAt .plane (p + s.w) →
          d = s.byteAt .plane (p + s.w + 1) →
          t.tripleAt p = ⟨d, b, a⟩ ∧ t.tripleAt (p + 1) = ⟨d, average b c2, a⟩
          ∧ t.tripleAt (p + s.w) = ⟨d, c2, a⟩ ∧ t.tripleAt (p + s.w + 1) = ⟨d, c2, a⟩

/-! The host's side. -/

/-- One poll of `WAIT`: the `STATUS` word goes to the host; while it shows `BUSY` the block has the next turn and the
host polls again (R99; that the block takes one step between two polls is the model's choice,
notes/assumptions/16.md). -/
def Obligations.WaitPollsUntilNotBusy : Prop :=
  ∀ (s : State) (rest : List Turn), s.agenda = .wait :: rest →
    (s.busy = true →
      step s = .next { s with
        agenda := .block :: .wait :: rest, replies := .reg 2 s.statusWord :: s.replies })
    ∧ (s.busy = false →
      step s = .next { s with agenda := rest, replies := .reg 2 s.statusWord :: s.replies })

/-- The bitmap file is `54 + RGBLEN` bytes and ends with the RGB buffer verbatim (R201). -/
def Obligations.BitmapFileLength : Prop :=
  ∀ (width height : Nat) (rgb : List Byte),
    (bitmapFile width height rgb).length = 54 + rgb.length ∧ (bitmapFile width height rgb).drop 54 = rgb

/-- The write-retry loop: what the sink accepted is a prefix, the whole exactly on success; a `WriteFailure` follows a
non-positive result and only positive ones before it; call number `i` is given the tail after what the earlier calls
accepted; and short writes, as long as each makes progress, still write everything (R207). That the sink is the list of
its results is the model's choice (notes/assumptions/23.md). -/
def Obligations.WriteLoopWritesAPrefix : Prop :=
  ∀ (bytes : List Byte) (sink : List Int),
    (∃ tail, bytes = (writeLoop bytes sink).accepted ++ tail
      ∧ ((writeLoop bytes sink).result = .success ↔ tail = []))
    ∧ ((writeLoop bytes sink).result = .writeFailure →
        ∃ used n, sink = used ++ n :: (writeLoop bytes sink).rest ∧ n ≤ 0 ∧ ∀ m ∈ used, 0 < m)
    ∧ (∀ i < (writeLoop bytes sink).calls.length,
        (writeLoop bytes sink).calls[i]? = some (bytes.drop ((sink.take i).map Int.toNat).sum))
    ∧ ((∀ n ∈ sink, 0 < n) → bytes.length ≤ sink.length → (writeLoop bytes sink).result = .success)

/-- The ends of the driver sequence in which no output file is created or modified: a type the host refuses and a missing
input are `ArgumentError`, a file that does not open is `OpenFailure`, all with the block untouched; a type the block
refuses is `ArgumentError` too, the block reset and no byte written but the raw bytes loaded; and a fault of the block is
returned as its kind, the block reset (R208, R212, R231). The model's choice: the name of the kind of `BOUNDS`
(notes/assumptions/21.md); that a missing input is answered before the output is tried (notes/assumptions/30.md); and that
the other errors create no output file either, as R212 says it of a refused type only
(notes/assumptions/28.md). -/
def Obligations.DriverEndsWithoutOutput : Prop :=
  (∀ (q : Request) (s : State),
    (q.checksType = true → q.ctype ≠ 0#8 → driver q s = ⟨.failed .argumentError, none, s⟩)
    ∧ (q.input = .missing → driver q s = ⟨.failed .argumentError, none, s⟩)
    ∧ (q.checksType = false ∨ q.ctype = 0#8 →
        q.input = .unopenable ∨ (∃ data, q.input = .bytes data) ∧ q.outputOpens = false →
        driver q s = ⟨.failed .openFailure, none, s⟩))
  ∧ (∀ (q : Request) (s : State) (data : List Byte), q.checksType = false → q.ctype ≠ 0#8 → q.input = .bytes data →
      q.outputOpens = true → s.phase = .idle → (q.obtained data).length ≤ s.caps.raw →
      ∃ t, driver q s = ⟨.failed .argumentError, none, t⟩ ∧ AtReset t
        ∧ KeepsMemoryBut .raw 0 (q.obtained data).length s t)
  ∧ (∀ (q : Request) (s : State) (f : FaultCode), s.phase = .halt → s.ecode = some f → s.lastRead = s.statusWord →
      ∃ t, driverFinish q s = ⟨.failed f.hostError, none, t⟩ ∧ AtReset t ∧ KeepsMemory s t)
  ∧ (FaultCode.argCmd.hostError = .argumentError ∧ FaultCode.argCfg.hostError = .argumentError
    ∧ FaultCode.alloc.hostError = .allocationFailure ∧ FaultCode.shortRead.hostError = .shortRead
    ∧ FaultCode.bounds.hostError = .boundaryReference)

/-- The whole pipeline over an even frame: read, unpack, demosaic, encode, write. The driver returns success and its
output is the bitmap file of the RGB bytes that the closed forms give for the input (R206, R212). The header goes through
the same loop as the payload, which is the model's choice (notes/assumptions/28.md); so is it that a file whose size does
not fit `bfSize` is written, with the bytes of that field free (notes/assumptions/27.md). -/
def Obligations.DriverWritesTheBitmap : Prop :=
  ∀ (q : Request) (s : State) (data : List Byte) (w h : Nat),
    w = q.width.toNat → h = q.height.toNat → w ≠ 0 → h ≠ 0 → w % 2 = 0 → h % 2 = 0 →
    q.ctype = 0#8 → q.input = .bytes data → q.outputOpens = true →
    s.phase = .idle → s.caps.legal → frameBytes (w * h) 10 ≤ s.caps.raw → w * h ≤ s.caps.plane → 3 * (w * h) ≤ s.caps.rgb →
    frameBytes (w * h) 10 ≤ data.length →
    (∀ n ∈ q.sink, 0 < n) → 54 + 3 * (w * h) ≤ q.sink.length →
    ∃ t, driver q s
        = ⟨.success, some (bitmapFile w h (convertedRgb (fun k => data.getD k 0#8) w h)), t⟩
      ∧ t.phase = .idle ∧ t.done = true ∧ t.agenda = []
end

