-- ==== Sys2Proof/Laws/State.lean ====
section
/-! SUPPORT. One lemma per field per update of the state, so that no proof unfolds a record update. -/

namespace Sys2Proof.Machine

open State

/-! `clearCompletion` -/

@[simp] theorem State.clearCompletion_ie (s : State) : (s.clearCompletion).ie = s.ie := rfl
@[simp] theorem State.clearCompletion_width (s : State) : (s.clearCompletion).width = s.width := rfl
@[simp] theorem State.clearCompletion_height (s : State) : (s.clearCompletion).height = s.height := rfl
@[simp] theorem State.clearCompletion_bitDepth (s : State) : (s.clearCompletion).bitDepth = s.bitDepth := rfl
@[simp] theorem State.clearCompletion_pattern (s : State) : (s.clearCompletion).pattern = s.pattern := rfl
@[simp] theorem State.clearCompletion_rawLen (s : State) : (s.clearCompletion).rawLen = s.rawLen := rfl
@[simp] theorem State.clearCompletion_phase (s : State) : (s.clearCompletion).phase = s.phase := rfl
@[simp] theorem State.clearCompletion_pix (s : State) : (s.clearCompletion).pix = s.pix := rfl
@[simp] theorem State.clearCompletion_chain (s : State) : (s.clearCompletion).chain = s.chain := rfl
@[simp] theorem State.clearCompletion_done (s : State) : (s.clearCompletion).done = false := rfl
@[simp] theorem State.clearCompletion_patnop (s : State) : (s.clearCompletion).patnop = false := rfl
@[simp] theorem State.clearCompletion_ecode (s : State) : (s.clearCompletion).ecode = s.ecode := rfl
@[simp] theorem State.clearCompletion_fpix (s : State) : (s.clearCompletion).fpix = s.fpix := rfl
@[simp] theorem State.clearCompletion_faddr (s : State) : (s.clearCompletion).faddr = s.faddr := rfl
@[simp] theorem State.clearCompletion_raw (s : State) : (s.clearCompletion).raw = s.raw := rfl
@[simp] theorem State.clearCompletion_plane (s : State) : (s.clearCompletion).plane = s.plane := rfl
@[simp] theorem State.clearCompletion_rgb (s : State) : (s.clearCompletion).rgb = s.rgb := rfl
@[simp] theorem State.clearCompletion_caps (s : State) : (s.clearCompletion).caps = s.caps := rfl
@[simp] theorem State.clearCompletion_agenda (s : State) : (s.clearCompletion).agenda = s.agenda := rfl
@[simp] theorem State.clearCompletion_replies (s : State) : (s.clearCompletion).replies = s.replies := rfl

/-! `raise` -/

@[simp] theorem State.raise_ie (s : State) (f : FaultCode) (x : Word) (k : Nat) : (State.raise f x k s).ie = s.ie := rfl
@[simp] theorem State.raise_width (s : State) (f : FaultCode) (x : Word) (k : Nat) : (State.raise f x k s).width = s.width := rfl
@[simp] theorem State.raise_height (s : State) (f : FaultCode) (x : Word) (k : Nat) : (State.raise f x k s).height = s.height := rfl
@[simp] theorem State.raise_bitDepth (s : State) (f : FaultCode) (x : Word) (k : Nat) : (State.raise f x k s).bitDepth = s.bitDepth := rfl
@[simp] theorem State.raise_pattern (s : State) (f : FaultCode) (x : Word) (k : Nat) : (State.raise f x k s).pattern = s.pattern := rfl
@[simp] theorem State.raise_rawLen (s : State) (f : FaultCode) (x : Word) (k : Nat) : (State.raise f x k s).rawLen = s.rawLen := rfl
@[simp] theorem State.raise_phase (s : State) (f : FaultCode) (x : Word) (k : Nat) : (State.raise f x k s).phase = .halt := rfl
@[simp] theorem State.raise_pix (s : State) (f : FaultCode) (x : Word) (k : Nat) : (State.raise f x k s).pix = s.pix := rfl
@[simp] theorem State.raise_chain (s : State) (f : FaultCode) (x : Word) (k : Nat) : (State.raise f x k s).chain = false := rfl
@[simp] theorem State.raise_done (s : State) (f : FaultCode) (x : Word) (k : Nat) : (State.raise f x k s).done = s.done := rfl
@[simp] theorem State.raise_patnop (s : State) (f : FaultCode) (x : Word) (k : Nat) : (State.raise f x k s).patnop = s.patnop := rfl
@[simp] theorem State.raise_ecode (s : State) (f : FaultCode) (x : Word) (k : Nat) : (State.raise f x k s).ecode = some f := rfl
@[simp] theorem State.raise_fpix (s : State) (f : FaultCode) (x : Word) (k : Nat) : (State.raise f x k s).fpix = x := rfl
@[simp] theorem State.raise_faddr (s : State) (f : FaultCode) (x : Word) (k : Nat) : (State.raise f x k s).faddr = BitVec.ofNat 32 k := rfl
@[simp] theorem State.raise_raw (s : State) (f : FaultCode) (x : Word) (k : Nat) : (State.raise f x k s).raw = s.raw := rfl
@[simp] theorem State.raise_plane (s : State) (f : FaultCode) (x : Word) (k : Nat) : (State.raise f x k s).plane = s.plane := rfl
@[simp] theorem State.raise_rgb (s : State) (f : FaultCode) (x : Word) (k : Nat) : (State.raise f x k s).rgb = s.rgb := rfl
@[simp] theorem State.raise_caps (s : State) (f : FaultCode) (x : Word) (k : Nat) : (State.raise f x k s).caps = s.caps := rfl
@[simp] theorem State.raise_agenda (s : State) (f : FaultCode) (x : Word) (k : Nat) : (State.raise f x k s).agenda = s.agenda := rfl
@[simp] theorem State.raise_replies (s : State) (f : FaultCode) (x : Word) (k : Nat) : (State.raise f x k s).replies = s.replies := rfl

/-! `softReset` -/

@[simp] theorem State.softReset_ie (s : State) : (s.softReset).ie = false := rfl
@[simp] theorem State.softReset_width (s : State) : (s.softReset).width = 0#16 := rfl
@[simp] theorem State.softReset_height (s : State) : (s.softReset).height = 0#16 := rfl
@[simp] theorem State.softReset_bitDepth (s : State) : (s.softReset).bitDepth = 10#5 := rfl
@[simp] theorem State.softReset_pattern (s : State) : (s.softReset).pattern = 0#2 := rfl
@[simp] theorem State.softReset_rawLen (s : State) : (s.softReset).rawLen = 0#32 := rfl
@[simp] theorem State.softReset_phase (s : State) : (s.softReset).phase = .idle := rfl
@[simp] theorem State.softReset_pix (s : State) : (s.softReset).pix = 0#32 := rfl
@[simp] theorem State.softReset_chain (s : State) : (s.softReset).chain = false := rfl
@[simp] theorem State.softReset_done (s : State) : (s.softReset).done = false := rfl
@[simp] theorem State.softReset_patnop (s : State) : (s.softReset).patnop = false := rfl
@[simp] theorem State.softReset_ecode (s : State) : (s.softReset).ecode = none := rfl
@[simp] theorem State.softReset_fpix (s : State) : (s.softReset).fpix = 0#32 := rfl
@[simp] theorem State.softReset_faddr (s : State) : (s.softReset).faddr = 0#32 := rfl
@[simp] theorem State.softReset_raw (s : State) : (s.softReset).raw = s.raw := rfl
@[simp] theorem State.softReset_plane (s : State) : (s.softReset).plane = s.plane := rfl
@[simp] theorem State.softReset_rgb (s : State) : (s.softReset).rgb = s.rgb := rfl
@[simp] theorem State.softReset_caps (s : State) : (s.softReset).caps = s.caps := rfl
@[simp] theorem State.softReset_agenda (s : State) : (s.softReset).agenda = s.agenda := rfl
@[simp] theorem State.softReset_replies (s : State) : (s.softReset).replies = s.replies := rfl

/-! `hardReset` -/

@[simp] theorem State.hardReset_ie (s : State) : (s.hardReset).ie = false := rfl
@[simp] theorem State.hardReset_width (s : State) : (s.hardReset).width = 0#16 := rfl
@[simp] theorem State.hardReset_height (s : State) : (s.hardReset).height = 0#16 := rfl
@[simp] theorem State.hardReset_bitDepth (s : State) : (s.hardReset).bitDepth = 10#5 := rfl
@[simp] theorem State.hardReset_pattern (s : State) : (s.hardReset).pattern = 0#2 := rfl
@[simp] theorem State.hardReset_rawLen (s : State) : (s.hardReset).rawLen = 0#32 := rfl
@[simp] theorem State.hardReset_phase (s : State) : (s.hardReset).phase = .idle := rfl
@[simp] theorem State.hardReset_pix (s : State) : (s.hardReset).pix = 0#32 := rfl
@[simp] theorem State.hardReset_chain (s : State) : (s.hardReset).chain = false := rfl
@[simp] theorem State.hardReset_done (s : State) : (s.hardReset).done = false := rfl
@[simp] theorem State.hardReset_patnop (s : State) : (s.hardReset).patnop = false := rfl
@[simp] theorem State.hardReset_ecode (s : State) : (s.hardReset).ecode = none := rfl
@[simp] theorem State.hardReset_fpix (s : State) : (s.hardReset).fpix = 0#32 := rfl
@[simp] theorem State.hardReset_faddr (s : State) : (s.hardReset).faddr = 0#32 := rfl
@[simp] theorem State.hardReset_raw (s : State) : (s.hardReset).raw = s.raw := rfl
@[simp] theorem State.hardReset_plane (s : State) : (s.hardReset).plane = s.plane := rfl
@[simp] theorem State.hardReset_rgb (s : State) : (s.hardReset).rgb = s.rgb := rfl
@[simp] theorem State.hardReset_caps (s : State) : (s.hardReset).caps = s.caps := rfl
@[simp] theorem State.hardReset_agenda (s : State) : (s.hardReset).agenda = s.agenda := rfl
@[simp] theorem State.hardReset_replies (s : State) : (s.hardReset).replies = s.replies := rfl

/-! `popTurn` -/

@[simp] theorem State.popTurn_ie (s : State) : (s.popTurn).ie = s.ie := rfl
@[simp] theorem State.popTurn_width (s : State) : (s.popTurn).width = s.width := rfl
@[simp] theorem State.popTurn_height (s : State) : (s.popTurn).height = s.height := rfl
@[simp] theorem State.popTurn_bitDepth (s : State) : (s.popTurn).bitDepth = s.bitDepth := rfl
@[simp] theorem State.popTurn_pattern (s : State) : (s.popTurn).pattern = s.pattern := rfl
@[simp] theorem State.popTurn_rawLen (s : State) : (s.popTurn).rawLen = s.rawLen := rfl
@[simp] theorem State.popTurn_phase (s : State) : (s.popTurn).phase = s.phase := rfl
@[simp] theorem State.popTurn_pix (s : State) : (s.popTurn).pix = s.pix := rfl
@[simp] theorem State.popTurn_chain (s : State) : (s.popTurn).chain = s.chain := rfl
@[simp] theorem State.popTurn_done (s : State) : (s.popTurn).done = s.done := rfl
@[simp] theorem State.popTurn_patnop (s : State) : (s.popTurn).patnop = s.patnop := rfl
@[simp] theorem State.popTurn_ecode (s : State) : (s.popTurn).ecode = s.ecode := rfl
@[simp] theorem State.popTurn_fpix (s : State) : (s.popTurn).fpix = s.fpix := rfl
@[simp] theorem State.popTurn_faddr (s : State) : (s.popTurn).faddr = s.faddr := rfl
@[simp] theorem State.popTurn_raw (s : State) : (s.popTurn).raw = s.raw := rfl
@[simp] theorem State.popTurn_plane (s : State) : (s.popTurn).plane = s.plane := rfl
@[simp] theorem State.popTurn_rgb (s : State) : (s.popTurn).rgb = s.rgb := rfl
@[simp] theorem State.popTurn_caps (s : State) : (s.popTurn).caps = s.caps := rfl
@[simp] theorem State.popTurn_agenda (s : State) : (s.popTurn).agenda = s.agenda.tail := rfl
@[simp] theorem State.popTurn_replies (s : State) : (s.popTurn).replies = s.replies := rfl

/-! `reply` -/

@[simp] theorem State.reply_ie (s : State) (r : HostReply) : (State.reply r s).ie = s.ie := rfl
@[simp] theorem State.reply_width (s : State) (r : HostReply) : (State.reply r s).width = s.width := rfl
@[simp] theorem State.reply_height (s : State) (r : HostReply) : (State.reply r s).height = s.height := rfl
@[simp] theorem State.reply_bitDepth (s : State) (r : HostReply) : (State.reply r s).bitDepth = s.bitDepth := rfl
@[simp] theorem State.reply_pattern (s : State) (r : HostReply) : (State.reply r s).pattern = s.pattern := rfl
@[simp] theorem State.reply_rawLen (s : State) (r : HostReply) : (State.reply r s).rawLen = s.rawLen := rfl
@[simp] theorem State.reply_phase (s : State) (r : HostReply) : (State.reply r s).phase = s.phase := rfl
@[simp] theorem State.reply_pix (s : State) (r : HostReply) : (State.reply r s).pix = s.pix := rfl
@[simp] theorem State.reply_chain (s : State) (r : HostReply) : (State.reply r s).chain = s.chain := rfl
@[simp] theorem State.reply_done (s : State) (r : HostReply) : (State.reply r s).done = s.done := rfl
@[simp] theorem State.reply_patnop (s : State) (r : HostReply) : (State.reply r s).patnop = s.patnop := rfl
@[simp] theorem State.reply_ecode (s : State) (r : HostReply) : (State.reply r s).ecode = s.ecode := rfl
@[simp] theorem State.reply_fpix (s : State) (r : HostReply) : (State.reply r s).fpix = s.fpix := rfl
@[simp] theorem State.reply_faddr (s : State) (r : HostReply) : (State.reply r s).faddr = s.faddr := rfl
@[simp] theorem State.reply_raw (s : State) (r : HostReply) : (State.reply r s).raw = s.raw := rfl
@[simp] theorem State.reply_plane (s : State) (r : HostReply) : (State.reply r s).plane = s.plane := rfl
@[simp] theorem State.reply_rgb (s : State) (r : HostReply) : (State.reply r s).rgb = s.rgb := rfl
@[simp] theorem State.reply_caps (s : State) (r : HostReply) : (State.reply r s).caps = s.caps := rfl
@[simp] theorem State.reply_agenda (s : State) (r : HostReply) : (State.reply r s).agenda = s.agenda := rfl
@[simp] theorem State.reply_replies (s : State) (r : HostReply) : (State.reply r s).replies = r :: s.replies := rfl

/-! `setByte`: no register changes, and the memory of the named space alone -/

@[simp] theorem State.setByte_ie (s : State) (sp : Space) (k : Nat) (b : Byte) : (s.setByte sp k b).ie = s.ie := by
  cases sp <;> rfl
@[simp] theorem State.setByte_width (s : State) (sp : Space) (k : Nat) (b : Byte) : (s.setByte sp k b).width = s.width := by
  cases sp <;> rfl
@[simp] theorem State.setByte_height (s : State) (sp : Space) (k : Nat) (b : Byte) : (s.setByte sp k b).height = s.height := by
  cases sp <;> rfl
@[simp] theorem State.setByte_bitDepth (s : State) (sp : Space) (k : Nat) (b : Byte) : (s.setByte sp k b).bitDepth = s.bitDepth := by
  cases sp <;> rfl
@[simp] theorem State.setByte_pattern (s : State) (sp : Space) (k : Nat) (b : Byte) : (s.setByte sp k b).pattern = s.pattern := by
  cases sp <;> rfl
@[simp] theorem State.setByte_rawLen (s : State) (sp : Space) (k : Nat) (b : Byte) : (s.setByte sp k b).rawLen = s.rawLen := by
  cases sp <;> rfl
@[simp] theorem State.setByte_phase (s : State) (sp : Space) (k : Nat) (b : Byte) : (s.setByte sp k b).phase = s.phase := by
  cases sp <;> rfl
@[simp] theorem State.setByte_pix (s : State) (sp : Space) (k : Nat) (b : Byte) : (s.setByte sp k b).pix = s.pix := by
  cases sp <;> rfl
@[simp] theorem State.setByte_chain (s : State) (sp : Space) (k : Nat) (b : Byte) : (s.setByte sp k b).chain = s.chain := by
  cases sp <;> rfl
@[simp] theorem State.setByte_done (s : State) (sp : Space) (k : Nat) (b : Byte) : (s.setByte sp k b).done = s.done := by
  cases sp <;> rfl
@[simp] theorem State.setByte_patnop (s : State) (sp : Space) (k : Nat) (b : Byte) : (s.setByte sp k b).patnop = s.patnop := by
  cases sp <;> rfl
@[simp] theorem State.setByte_ecode (s : State) (sp : Space) (k : Nat) (b : Byte) : (s.setByte sp k b).ecode = s.ecode := by
  cases sp <;> rfl
@[simp] theorem State.setByte_fpix (s : State) (sp : Space) (k : Nat) (b : Byte) : (s.setByte sp k b).fpix = s.fpix := by
  cases sp <;> rfl
@[simp] theorem State.setByte_faddr (s : State) (sp : Space) (k : Nat) (b : Byte) : (s.setByte sp k b).faddr = s.faddr := by
  cases sp <;> rfl
@[simp] theorem State.setByte_raw_raw (s : State) (k : Nat) (b : Byte) : (s.setByte .raw k b).raw = s.raw.write k b := rfl
@[simp] theorem State.setByte_plane_raw (s : State) (k : Nat) (b : Byte) : (s.setByte .plane k b).raw = s.raw := rfl
@[simp] theorem State.setByte_rgb_raw (s : State) (k : Nat) (b : Byte) : (s.setByte .rgb k b).raw = s.raw := rfl
@[simp] theorem State.setByte_plane_plane (s : State) (k : Nat) (b : Byte) : (s.setByte .plane k b).plane = s.plane.write k b := rfl
@[simp] theorem State.setByte_raw_plane (s : State) (k : Nat) (b : Byte) : (s.setByte .raw k b).plane = s.plane := rfl
@[simp] theorem State.setByte_rgb_plane (s : State) (k : Nat) (b : Byte) : (s.setByte .rgb k b).plane = s.plane := rfl
@[simp] theorem State.setByte_rgb_rgb (s : State) (k : Nat) (b : Byte) : (s.setByte .rgb k b).rgb = s.rgb.write k b := rfl
@[simp] theorem State.setByte_raw_rgb (s : State) (k : Nat) (b : Byte) : (s.setByte .raw k b).rgb = s.rgb := rfl
@[simp] theorem State.setByte_plane_rgb (s : State) (k : Nat) (b : Byte) : (s.setByte .plane k b).rgb = s.rgb := rfl
@[simp] theorem State.setByte_caps (s : State) (sp : Space) (k : Nat) (b : Byte) : (s.setByte sp k b).caps = s.caps := by
  cases sp <;> rfl
@[simp] theorem State.setByte_agenda (s : State) (sp : Space) (k : Nat) (b : Byte) : (s.setByte sp k b).agenda = s.agenda := by
  cases sp <;> rfl
@[simp] theorem State.setByte_replies (s : State) (sp : Space) (k : Nat) (b : Byte) : (s.setByte sp k b).replies = s.replies := by
  cases sp <;> rfl

/-! `endUnpackStep`: every field the end of the step leaves alone -/

@[simp] theorem State.endUnpackStep_ie (s : State) : (s.endUnpackStep).ie = s.ie := by
  unfold State.endUnpackStep; dsimp only; (repeat' split) <;> rfl
@[simp] theorem State.endUnpackStep_width (s : State) : (s.endUnpackStep).width = s.width := by
  unfold State.endUnpackStep; dsimp only; (repeat' split) <;> rfl
@[simp] theorem State.endUnpackStep_height (s : State) : (s.endUnpackStep).height = s.height := by
  unfold State.endUnpackStep; dsimp only; (repeat' split) <;> rfl
@[simp] theorem State.endUnpackStep_bitDepth (s : State) : (s.endUnpackStep).bitDepth = s.bitDepth := by
  unfold State.endUnpackStep; dsimp only; (repeat' split) <;> rfl
@[simp] theorem State.endUnpackStep_pattern (s : State) : (s.endUnpackStep).pattern = s.pattern := by
  unfold State.endUnpackStep; dsimp only; (repeat' split) <;> rfl
@[simp] theorem State.endUnpackStep_rawLen (s : State) : (s.endUnpackStep).rawLen = s.rawLen := by
  unfold State.endUnpackStep; dsimp only; (repeat' split) <;> rfl
@[simp] theorem State.endUnpackStep_patnop (s : State) : (s.endUnpackStep).patnop = s.patnop := by
  unfold State.endUnpackStep; dsimp only; (repeat' split) <;> rfl
@[simp] theorem State.endUnpackStep_ecode (s : State) : (s.endUnpackStep).ecode = s.ecode := by
  unfold State.endUnpackStep; dsimp only; (repeat' split) <;> rfl
@[simp] theorem State.endUnpackStep_fpix (s : State) : (s.endUnpackStep).fpix = s.fpix := by
  unfold State.endUnpackStep; dsimp only; (repeat' split) <;> rfl
@[simp] theorem State.endUnpackStep_faddr (s : State) : (s.endUnpackStep).faddr = s.faddr := by
  unfold State.endUnpackStep; dsimp only; (repeat' split) <;> rfl
@[simp] theorem State.endUnpackStep_raw (s : State) : (s.endUnpackStep).raw = s.raw := by
  unfold State.endUnpackStep; dsimp only; (repeat' split) <;> rfl
@[simp] theorem State.endUnpackStep_plane (s : State) : (s.endUnpackStep).plane = s.plane := by
  unfold State.endUnpackStep; dsimp only; (repeat' split) <;> rfl
@[simp] theorem State.endUnpackStep_rgb (s : State) : (s.endUnpackStep).rgb = s.rgb := by
  unfold State.endUnpackStep; dsimp only; (repeat' split) <;> rfl
@[simp] theorem State.endUnpackStep_caps (s : State) : (s.endUnpackStep).caps = s.caps := by
  unfold State.endUnpackStep; dsimp only; (repeat' split) <;> rfl
@[simp] theorem State.endUnpackStep_agenda (s : State) : (s.endUnpackStep).agenda = s.agenda := by
  unfold State.endUnpackStep; dsimp only; (repeat' split) <;> rfl
@[simp] theorem State.endUnpackStep_replies (s : State) : (s.endUnpackStep).replies = s.replies := by
  unfold State.endUnpackStep; dsimp only; (repeat' split) <;> rfl

/-! `endDemosaicStep`: every field the end of the step leaves alone -/

@[simp] theorem State.endDemosaicStep_ie (s : State) : (s.endDemosaicStep).ie = s.ie := by
  unfold State.endDemosaicStep; dsimp only; (repeat' split) <;> rfl
@[simp] theorem State.endDemosaicStep_width (s : State) : (s.endDemosaicStep).width = s.width := by
  unfold State.endDemosaicStep; dsimp only; (repeat' split) <;> rfl
@[simp] theorem State.endDemosaicStep_height (s : State) : (s.endDemosaicStep).height = s.height := by
  unfold State.endDemosaicStep; dsimp only; (repeat' split) <;> rfl
@[simp] theorem State.endDemosaicStep_bitDepth (s : State) : (s.endDemosaicStep).bitDepth = s.bitDepth := by
  unfold State.endDemosaicStep; dsimp only; (repeat' split) <;> rfl
@[simp] theorem State.endDemosaicStep_pattern (s : State) : (s.endDemosaicStep).pattern = s.pattern := by
  unfold State.endDemosaicStep; dsimp only; (repeat' split) <;> rfl
@[simp] theorem State.endDemosaicStep_rawLen (s : State) : (s.endDemosaicStep).rawLen = s.rawLen := by
  unfold State.endDemosaicStep; dsimp only; (repeat' split) <;> rfl
@[simp] theorem State.endDemosaicStep_chain (s : State) : (s.endDemosaicStep).chain = s.chain := by
  unfold State.endDemosaicStep; dsimp only; (repeat' split) <;> rfl
@[simp] theorem State.endDemosaicStep_patnop (s : State) : (s.endDemosaicStep).patnop = s.patnop := by
  unfold State.endDemosaicStep; dsimp only; (repeat' split) <;> rfl
@[simp] theorem State.endDemosaicStep_ecode (s : State) : (s.endDemosaicStep).ecode = s.ecode := by
  unfold State.endDemosaicStep; dsimp only; (repeat' split) <;> rfl
@[simp] theorem State.endDemosaicStep_fpix (s : State) : (s.endDemosaicStep).fpix = s.fpix := by
  unfold State.endDemosaicStep; dsimp only; (repeat' split) <;> rfl
@[simp] theorem State.endDemosaicStep_faddr (s : State) : (s.endDemosaicStep).faddr = s.faddr := by
  unfold State.endDemosaicStep; dsimp only; (repeat' split) <;> rfl
@[simp] theorem State.endDemosaicStep_raw (s : State) : (s.endDemosaicStep).raw = s.raw := by
  unfold State.endDemosaicStep; dsimp only; (repeat' split) <;> rfl
@[simp] theorem State.endDemosaicStep_plane (s : State) : (s.endDemosaicStep).plane = s.plane := by
  unfold State.endDemosaicStep; dsimp only; (repeat' split) <;> rfl
@[simp] theorem State.endDemosaicStep_rgb (s : State) : (s.endDemosaicStep).rgb = s.rgb := by
  unfold State.endDemosaicStep; dsimp only; (repeat' split) <;> rfl
@[simp] theorem State.endDemosaicStep_caps (s : State) : (s.endDemosaicStep).caps = s.caps := by
  unfold State.endDemosaicStep; dsimp only; (repeat' split) <;> rfl
@[simp] theorem State.endDemosaicStep_agenda (s : State) : (s.endDemosaicStep).agenda = s.agenda := by
  unfold State.endDemosaicStep; dsimp only; (repeat' split) <;> rfl
@[simp] theorem State.endDemosaicStep_replies (s : State) : (s.endDemosaicStep).replies = s.replies := by
  unfold State.endDemosaicStep; dsimp only; (repeat' split) <;> rfl

/-! The derived quantities of an updated state follow from its fields. -/

@[simp] theorem State.setByte_w (s : State) (sp : Space) (k : Nat) (b : Byte) : (s.setByte sp k b).w = s.w := by
  simp [State.w]
@[simp] theorem State.setByte_h (s : State) (sp : Space) (k : Nat) (b : Byte) : (s.setByte sp k b).h = s.h := by
  simp [State.h]
@[simp] theorem State.setByte_d (s : State) (sp : Space) (k : Nat) (b : Byte) : (s.setByte sp k b).d = s.d := by
  simp [State.d]
@[simp] theorem State.setByte_p (s : State) (sp : Space) (k : Nat) (b : Byte) : (s.setByte sp k b).p = s.p := by
  simp [State.p]
@[simp] theorem State.setByte_npix (s : State) (sp : Space) (k : Nat) (b : Byte) :
    (s.setByte sp k b).npix = s.npix := by simp [State.npix]
@[simp] theorem State.setByte_cap (s : State) (sp sp' : Space) (k : Nat) (b : Byte) :
    (s.setByte sp k b).cap sp' = s.cap sp' := by cases sp' <;> simp [State.cap]
@[simp] theorem State.popTurn_npix (s : State) : s.popTurn.npix = s.npix := rfl
@[simp] theorem State.popTurn_p (s : State) : s.popTurn.p = s.p := rfl
@[simp] theorem State.popTurn_byteAt (s : State) (sp : Space) (k : Nat) :
    s.popTurn.byteAt sp k = s.byteAt sp k := by cases sp <;> rfl
@[simp] theorem State.reply_byteAt (s : State) (r : HostReply) (sp : Space) (k : Nat) :
    (State.reply r s).byteAt sp k = s.byteAt sp k := by cases sp <;> rfl
@[simp] theorem State.raise_byteAt (s : State) (f : FaultCode) (x : Word) (j : Nat) (sp : Space) (k : Nat) :
    (State.raise f x j s).byteAt sp k = s.byteAt sp k := by cases sp <;> rfl
@[simp] theorem State.clearCompletion_byteAt (s : State) (sp : Space) (k : Nat) :
    s.clearCompletion.byteAt sp k = s.byteAt sp k := by cases sp <;> rfl
@[simp] theorem State.softReset_byteAt (s : State) (sp : Space) (k : Nat) :
    s.softReset.byteAt sp k = s.byteAt sp k := by cases sp <;> rfl
@[simp] theorem State.hardReset_byteAt (s : State) (sp : Space) (k : Nat) :
    s.hardReset.byteAt sp k = s.byteAt sp k := by cases sp <;> rfl
@[simp] theorem State.endUnpackStep_byteAt (s : State) (sp : Space) (k : Nat) :
    s.endUnpackStep.byteAt sp k = s.byteAt sp k := by
  cases sp <;> simp [State.byteAt, State.mem]
@[simp] theorem State.endDemosaicStep_byteAt (s : State) (sp : Space) (k : Nat) :
    s.endDemosaicStep.byteAt sp k = s.byteAt sp k := by
  cases sp <;> simp [State.byteAt, State.mem]

end Sys2Proof.Machine
end

