-- ==== Sys2Proof/Laws/Memory.lean ====
section
/-! SUPPORT. The laws of the byte memories: a read after a write, the canonical form, the bound by the capacity. -/

namespace Sys2Proof.Machine

@[simp] theorem Memory.read_nil (k : Nat) : Memory.read [] k = none := rfl

@[simp] theorem Memory.read_cons (c : Host.Cell) (m : Memory) (k : Nat) :
    Memory.read (c :: m) k = if c.1 = k then some c.2 else Memory.read m k := rfl

@[simp] theorem Memory.write_nil (k : Nat) (b : Byte) : Memory.write [] k b = [(k, b)] := rfl

@[simp] theorem Memory.write_cons (c : Host.Cell) (m : Memory) (k : Nat) (b : Byte) :
    Memory.write (c :: m) k b =
      if k < c.1 then (k, b) :: c :: m else if k = c.1 then (k, b) :: m else c :: Memory.write m k b := rfl

@[simp] theorem Memory.read_write_same (m : Memory) (k : Nat) (b : Byte) :
    (Memory.write m k b).read k = some b := by
  induction m with
  | nil => simp
  | cons c m ih =>
    rw [Memory.write_cons]
    split
    · simp
    · split
      · simp
      · simp only [Memory.read_cons]
        rw [if_neg (by omega), ih]

theorem Memory.read_write_other (m : Memory) (k j : Nat) (b : Byte) (h : j ≠ k) :
    (Memory.write m k b).read j = m.read j := by
  induction m with
  | nil => simp [h.symm]
  | cons c m ih =>
    rw [Memory.write_cons]
    split
    · simp [h.symm]
    · split
      · simp only [Memory.read_cons]
        rw [if_neg (by omega), if_neg (by omega)]
      · simp [ih]

/-- What a write can list: the new cell and cells that were there. -/
theorem Memory.mem_write {m : Memory} {k : Nat} {b : Byte} {c : Host.Cell}
    (h : c ∈ Memory.write m k b) : c = (k, b) ∨ c ∈ m := by
  induction m with
  | nil => exact .inl (by simpa using h)
  | cons d m ih =>
    rw [Memory.write_cons] at h
    split at h
    · simpa using h
    · split at h
      · rcases List.mem_cons.1 h with h | h
        · exact .inl h
        · exact .inr (List.mem_cons_of_mem _ h)
      · rcases List.mem_cons.1 h with h | h
        · exact .inr (h ▸ List.mem_cons_self ..)
        · exact (ih h).imp_right (List.mem_cons_of_mem _)

/-- A write keeps the canonical form. -/
theorem Memory.write_wf {m : Memory} (k : Nat) (b : Byte) (h : m.wf) : (Memory.write m k b).wf := by
  induction m with
  | nil => simp
  | cons d m ih =>
    have hd := List.pairwise_cons.1 h
    rw [Memory.write_cons]
    split
    · rename_i hk
      refine List.pairwise_cons.2 ⟨fun c hc => ?_, h⟩
      rcases List.mem_cons.1 hc with rfl | hc
      · exact hk
      · exact lt_trans hk (hd.1 c hc)
    · split
      · rename_i hk
        exact List.pairwise_cons.2 ⟨fun c hc => hk ▸ hd.1 c hc, hd.2⟩
      · refine List.pairwise_cons.2 ⟨fun c hc => ?_, ih hd.2⟩
        rcases Memory.mem_write hc with rfl | hc
        · show d.1 < k
          omega
        · exact hd.1 c hc

/-- A write below the capacity keeps every listed index below it. -/
theorem Memory.write_below {m : Memory} {cap : Nat} (k : Nat) (b : Byte) (hk : k < cap) (h : m.below cap) :
    (Memory.write m k b).below cap := by
  intro c hc
  rcases Memory.mem_write hc with rfl | hc
  · exact hk
  · exact h c hc

/-- Storing a byte keeps the canonical form of the memory of every space. -/
theorem State.setByte_wf (s : State) (sp : Space) (k : Nat) (b : Byte) (h : ∀ x, (s.mem x).wf) :
    ∀ x, ((s.setByte sp k b).mem x).wf := by
  intro x
  have hx := h x
  cases sp <;> cases x <;> first | exact hx | exact Memory.write_wf k b hx

/-- Storing a byte below the capacity keeps the memory of every space below its capacity. -/
theorem State.setByte_below (s : State) (sp : Space) (k : Nat) (b : Byte) (hk : k < s.cap sp)
    (h : ∀ x, (s.mem x).below (s.cap x)) : ∀ x, ((s.setByte sp k b).mem x).below ((s.setByte sp k b).cap x) := by
  intro x
  have hx := h x
  cases sp <;> cases x <;> first | exact hx | exact Memory.write_below k b hk hx

/-- The byte stored is the byte read. -/
@[simp] theorem State.setByte_byteAt_same (s : State) (sp : Space) (k : Nat) (b : Byte) :
    (s.setByte sp k b).byteAt sp k = b := by
  cases sp <;> simp [State.byteAt, State.mem]

/-- Every other byte reads as before. -/
theorem State.setByte_byteAt_other (s : State) (sp sp' : Space) (k j : Nat) (b : Byte)
    (h : sp' ≠ sp ∨ j ≠ k) : (s.setByte sp k b).byteAt sp' j = s.byteAt sp' j := by
  cases sp <;> cases sp' <;>
    simp_all [State.byteAt, State.mem, Memory.read_write_other]

/-- After reset every memory is in canonical form. -/
theorem State.reset_wf : ∀ x, (State.reset.mem x).wf := by
  intro x; cases x <;> exact List.Pairwise.nil

/-- After reset every byte is the free value of its index. -/
@[simp] theorem State.reset_byteAt (sp : Space) (k : Nat) :
    State.reset.byteAt sp k = Config.powerUpByte sp k := by cases sp <;> rfl

end Sys2Proof.Machine
end

