-- ==== Sys2Proof/Laws/Ops.lean ====
section
/-! SUPPORT. For each shared operation, one lemma that says everything it can do, and the lemma of its ordinary
case. -/

namespace Sys2Proof.Machine

/-! Reading a byte. -/

@[simp] theorem withByte_ok {sp : Space} {k : Nat} {s : State} {cont : Byte → Result} (h : k < s.cap sp) :
    withByte sp k s cont = cont (s.byteAt sp k) := by simp [withByte, h]

theorem withByte_next {sp : Space} {k : Nat} {s t : State} {cont : Byte → Result}
    (h : withByte sp k s cont = .next t) : k < s.cap sp ∧ cont (s.byteAt sp k) = .next t := by
  unfold withByte at h
  split at h
  · exact ⟨‹_›, h⟩
  · cases h

/-! Storing a byte. -/

@[simp] theorem storeByte_ok {sp : Space} {k : Nat} {b : Byte} {s : State} {cont : State → Result}
    (h : k < s.cap sp) : storeByte sp k b s cont = cont (s.setByte sp k b) := by simp [storeByte, h]

theorem storeByte_next {sp : Space} {k : Nat} {b : Byte} {s t : State} {cont : State → Result}
    (h : storeByte sp k b s cont = .next t) : k < s.cap sp ∧ cont (s.setByte sp k b) = .next t := by
  unfold storeByte at h
  split at h
  · exact ⟨‹_›, h⟩
  · cases h

/-! The bounds-checked plane read. -/

@[simp] theorem withPlane_ok {k : Nat} {s : State} {cont : Byte → Result} (h : k < s.npix)
    (hc : s.npix ≤ s.caps.plane) : withPlane k s cont = cont (s.byteAt .plane k) := by
  rw [withPlane, if_pos h, withByte_ok (by show k < s.caps.plane; omega)]

@[simp] theorem withPlane_bounds {k : Nat} {s : State} {cont : Byte → Result} (h : s.npix ≤ k) :
    withPlane k s cont = .next (s.raise .bounds s.pix k) := by
  rw [withPlane, if_neg (by omega)]

theorem withPlane_next {k : Nat} {s t : State} {cont : Byte → Result} (h : withPlane k s cont = .next t) :
    (k < s.npix ∧ k < s.caps.plane ∧ cont (s.byteAt .plane k) = .next t)
      ∨ (s.npix ≤ k ∧ t = s.raise .bounds s.pix k) := by
  unfold withPlane at h
  split at h
  · obtain ⟨h1, h2⟩ := withByte_next h
    exact .inl ⟨‹_›, h1, h2⟩
  · exact .inr ⟨by omega, by injection h with h; exact h.symm⟩

/-! The second raw read. -/

theorem withSecondByte_next {k : Nat} {s t : State} {cont : Byte → Result}
    (h : withSecondByte k s cont = .next t) :
    (k < s.rawlen ∧ k < s.caps.raw ∧ cont (s.byteAt .raw k) = .next t)
      ∨ (s.rawlen ≤ k ∧ cont 0#8 = .next t) := by
  unfold withSecondByte at h
  split at h
  · obtain ⟨h1, h2⟩ := withByte_next h
    exact .inl ⟨‹_›, h1, h2⟩
  · exact .inr ⟨by omega, h⟩

@[simp] theorem withSecondByte_ok {k : Nat} {s : State} {cont : Byte → Result} (h : k < s.rawlen)
    (hc : k < s.caps.raw) : withSecondByte k s cont = cont (s.byteAt .raw k) := by
  rw [withSecondByte, if_pos h, withByte_ok hc]

@[simp] theorem withSecondByte_past {k : Nat} {s : State} {cont : Byte → Result} (h : s.rawlen ≤ k) :
    withSecondByte k s cont = cont 0#8 := by
  rw [withSecondByte, if_neg (by omega)]

/-! The write-back of a step. -/

@[simp] theorem finishUnpack_ok {out : Byte} {s : State} (h : s.p < s.caps.plane) :
    finishUnpack out s = .next (s.setByte .plane s.p out).endUnpackStep := by
  simp [finishUnpack, storeByte, State.cap, h]

theorem finishUnpack_next {out : Byte} {s t : State} (h : finishUnpack out s = .next t) :
    s.p < s.caps.plane ∧ t = (s.setByte .plane s.p out).endUnpackStep := by
  obtain ⟨h1, h2⟩ := storeByte_next h
  exact ⟨h1, by injection h2 with h2; exact h2.symm⟩

/-- The state with the triple of pixel `PIX` stored. -/
def State.setTriple (s : State) (b g r : Byte) : State :=
  ((s.setByte .rgb (3 * s.p) b).setByte .rgb (3 * s.p + 1) g).setByte .rgb (3 * s.p + 2) r

@[simp] theorem finishDemosaic_ok {b g r : Byte} {s : State} (h : 3 * s.p + 2 < s.caps.rgb) :
    finishDemosaic b g r s = .next (s.setTriple b g r).endDemosaicStep := by
  unfold finishDemosaic
  rw [storeByte_ok (by show 3 * s.p < s.caps.rgb; omega),
    storeByte_ok (by rw [State.setByte_cap]; show 3 * s.p + 1 < s.caps.rgb; omega),
    storeByte_ok (by rw [State.setByte_cap, State.setByte_cap]; exact h)]
  rfl

theorem finishDemosaic_next {b g r : Byte} {s t : State} (h : finishDemosaic b g r s = .next t) :
    3 * s.p + 2 < s.caps.rgb ∧ t = (s.setTriple b g r).endDemosaicStep := by
  obtain ⟨_, h⟩ := storeByte_next h
  obtain ⟨_, h⟩ := storeByte_next h
  obtain ⟨h3, h⟩ := storeByte_next h
  rw [State.setByte_cap, State.setByte_cap] at h3
  exact ⟨h3, by injection h with h; exact h.symm⟩

/-! Presenting a command, and the host's buffer accesses. -/

theorem present_cases (start : State → State) (s : State) :
    (s.phase = .idle ∧ s.present start = start s.clearCompletion)
      ∨ (s.phase ≠ .idle ∧ s.present start = s) := by
  unfold State.present
  split
  · exact .inl ⟨‹_›, rfl⟩
  · exact .inr ⟨‹_›, rfl⟩

theorem hostBuffer_next {sp : Space} {k : Nat} {s cont t : State} (h : hostBuffer sp k s cont = .next t) :
    s.busy = false ∧ k < s.cap sp ∧ t = cont := by
  unfold hostBuffer at h
  split at h
  · cases h
  · split at h
    · rename_i hb hk
      exact ⟨by simpa using hb, hk, by injection h with h; exact h.symm⟩
    · cases h

/-- A configuration write leaves everything but the six writable registers alone. -/
theorem regWrite_cases (s : State) (n : Nat) (v : Word) :
    s.regWrite n v = s ∨ (n = 0 ∧ s.regWrite n v = { s with ie := v.getLsbD 0 })
      ∨ (s.busy = false ∧
        ((n = 3 ∧ s.regWrite n v = { s with width := v.setWidth 16 })
          ∨ (n = 4 ∧ s.regWrite n v = { s with height := v.setWidth 16 })
          ∨ (n = 5 ∧ s.regWrite n v = { s with bitDepth := v.setWidth 5 })
          ∨ (n = 6 ∧ s.regWrite n v = { s with pattern := v.setWidth 2 })
          ∨ (n = 7 ∧ s.regWrite n v = { s with rawLen := v }))) := by
  unfold State.regWrite State.whenNotBusy
  split
  · exact .inr (.inl ⟨rfl, rfl⟩)
  all_goals cases s.busy <;> simp

/-! One step: what it can be. -/

theorem step_cases (s : State) :
    (∃ i, nextWork s = .run i ∧ step s = exec i s.popTurn)
      ∨ (∃ v, nextWork s = .illegal v ∧ step s = presentIllegal v s.popTurn)
      ∨ (∃ a, nextWork s = .access a ∧ step s = hostAccess a s.popTurn)
      ∨ (nextWork s = .poll ∧ step s = pollStatus s.popTurn)
      ∨ (nextWork s = .rest ∧ step s = .next s.popTurn)
      ∨ (nextWork s = .noKind ∧ step s = .fault .noStepKind) := by
  unfold step
  split <;> simp_all

end Sys2Proof.Machine
end

