-- ==== Sys2Proof/Laws/Commands.lean ====
section
/-! SUPPORT. What the start of each command can do, said once: it faults, or its checks hold and the phase starts. -/

namespace Sys2Proof.Machine

theorem startUnpack_cases (v : Word) (s : State) :
    (∃ f, f ≠ FaultCode.bounds ∧ startUnpack v s = s.startFault f v)
      ∨ (s.w ≠ 0 ∧ s.h ≠ 0 ∧ s.d ∈ Config.legalDepths ∧ s.rawlen ≤ s.caps.raw ∧ s.npix ≤ s.caps.plane
        ∧ s.rawlen ≤ s.rawLen.toNat
        ∧ startUnpack v s = { s with chain := false, pix := 0#32, phase := .unpack }) := by
  unfold startUnpack
  split_ifs with h1 h2 h3 h4
  · exact .inl ⟨.argCfg, by decide, rfl⟩
  · exact .inl ⟨.alloc, by decide, rfl⟩
  · exact .inl ⟨.shortRead, by decide, rfl⟩
  · simp only [not_or, not_lt] at h1 h3 h4
    exact .inr ⟨h1.1, h1.2, h2, h3.1, h3.2, h4, rfl⟩
  · exact .inl ⟨.argCfg, by decide, rfl⟩

theorem startDemosaic_cases (v : Word) (s : State) :
    (∃ f, f ≠ FaultCode.bounds ∧ startDemosaic v s = s.startFault f v)
      ∨ (s.pattern ≠ 0#2 ∧ startDemosaic v s = { s with pix := 0#32, patnop := true, done := true })
      ∨ (s.w ≠ 0 ∧ s.h ≠ 0 ∧ s.npix ≤ s.caps.plane ∧ s.rgblen ≤ s.caps.rgb ∧ s.pattern = 0#2
        ∧ startDemosaic v s = { s with pix := 0#32, phase := .demosaic }) := by
  unfold startDemosaic
  split_ifs with h1 h2 h3
  · exact .inl ⟨.argCfg, by decide, rfl⟩
  · exact .inl ⟨.alloc, by decide, rfl⟩
  · exact .inr (.inl ⟨h3, rfl⟩)
  · simp only [not_or, not_lt] at h1 h2
    exact .inr (.inr ⟨h1.1, h1.2, h2.1, h2.2, not_not.1 h3, rfl⟩)

/-- The state with depth and pattern as the one defined conversion fixes them. -/
def State.fixConversion (s : State) : State := { s with bitDepth := 10#5, pattern := 0#2 }

theorem startConvert_cases (c : Nat) (v : Word) (s : State) :
    (∃ f, f ≠ FaultCode.bounds ∧
        (startConvert c v s = s.startFault f v ∨ startConvert c v s = s.fixConversion.startFault f v))
      ∨ (c = 0 ∧ s.w ≠ 0 ∧ s.h ≠ 0 ∧ s.fixConversion.rawlen ≤ s.caps.raw ∧ s.npix ≤ s.caps.plane
        ∧ s.rgblen ≤ s.caps.rgb ∧ s.fixConversion.rawlen ≤ s.rawLen.toNat
        ∧ startConvert c v s = { s.fixConversion with chain := true, pix := 0#32, phase := .unpack }) := by
  unfold startConvert
  split_ifs with h0
  · unfold startConversion
    dsimp only
    by_cases h1 : s.w = 0 ∨ s.h = 0
    · exact .inl ⟨.argCfg, by decide, .inr (if_pos h1)⟩
    rw [if_neg (by exact h1)]
    by_cases h2 : s.caps.raw < s.fixConversion.rawlen ∨ s.caps.plane < s.npix ∨ s.caps.rgb < s.rgblen
    · exact .inl ⟨.alloc, by decide, .inr (if_pos h2)⟩
    rw [if_neg (by exact h2)]
    by_cases h3 : s.rawLen.toNat < s.fixConversion.rawlen
    · exact .inl ⟨.shortRead, by decide, .inr (if_pos h3)⟩
    rw [if_neg (by exact h3)]
    rw [not_or] at h1
    rw [not_or, not_or, not_lt, not_lt, not_lt] at h2
    exact .inr ⟨h0, h1.1, h1.2, h2.1, h2.2.1, h2.2.2, not_lt.1 h3, rfl⟩
  · exact .inl ⟨.argCmd, by decide, .inl rfl⟩

end Sys2Proof.Machine
end

