-- ==== Sys2Proof/Laws/HostDriver.lean ====
section
/-! SUPPORT. The small lemmas of the host's write loop and driver, and what each can do. -/

namespace Sys2Proof.Machine

@[simp] theorem bytesLE_length (n v : Nat) : (bytesLE n v).length = n := by
  induction n generalizing v with
  | zero => rfl
  | succ n ih => simp [bytesLE, ih]

/-- A number written as `n` bytes reads back as its low `8 * n` bits. -/
@[simp] theorem natOfBytesLE_bytesLE (n v : Nat) : natOfBytesLE (bytesLE n v) = v % 256 ^ n := by
  induction n generalizing v with
  | zero => simp [bytesLE, natOfBytesLE, Nat.mod_one]
  | succ n ih =>
    rw [bytesLE, natOfBytesLE, ih, Nat.pow_succ', Nat.mod_mul]
    simp

@[simp] theorem sizeField_length (size : Nat) : (sizeField size).length = 4 := by
  unfold sizeField
  split_ifs <;> exact bytesLE_length 4 _

@[simp] theorem writeLoop_done (sink : List Int) : writeLoop [] sink = ⟨.success, [], [], sink⟩ := by
  cases sink <;> rfl

/-- Of a tail that is not empty the loop waits for a call, ends on a non-positive result, or goes on with the rest. -/
theorem writeLoop_cases {tail : List Byte} (h : tail ≠ []) (sink : List Int) :
    (sink = [] ∧ writeLoop tail sink = ⟨.unfinished, [], [], []⟩)
      ∨ ∃ n rest, sink = n :: rest
        ∧ ((n ≤ 0 ∧ writeLoop tail sink = ⟨.writeFailure, [tail], [], rest⟩)
          ∨ (0 < n ∧ writeLoop tail sink
              = { writeLoop (tail.drop n.toNat) rest with
                  calls := tail :: (writeLoop (tail.drop n.toNat) rest).calls
                  accepted := tail.take n.toNat ++ (writeLoop (tail.drop n.toNat) rest).accepted })) := by
  obtain ⟨b, bs, rfl⟩ := List.exists_cons_of_ne_nil h
  cases sink with
  | nil => exact .inl ⟨rfl, rfl⟩
  | cons n rest =>
    refine .inr ⟨n, rest, rfl, ?_⟩
    rcases Int.lt_or_le 0 n with hn | hn
    · exact .inr ⟨hn, by rw [writeLoop, if_neg (by omega)]⟩
    · exact .inl ⟨hn, by rw [writeLoop, if_pos hn]⟩

@[simp] theorem runTurns_done {s : State} (h : s.agenda = []) (n : Nat) : runTurns n s = .next s := by
  cases n with
  | zero => rfl
  | succ n => simp [runTurns, h]

theorem runTurns_step {s t : State} (h : s.agenda ≠ []) (hs : step s = .next t) (n : Nat) :
    runTurns (n + 1) s = runTurns n t := by
  obtain ⟨a, as, ha⟩ := List.exists_cons_of_ne_nil h
  simp [runTurns, ha, hs]

/-- The replies to the byte reads of `n` indices from `k` on, oldest first. -/
def readReplies (s : State) (sp : Space) (k n : Nat) : List HostReply :=
  (List.range' k n).map fun j => .buf sp j (s.byteAt sp j)

/-- Byte reads by the host, while it owns the buffers and inside the capacity, do nothing but return the bytes. -/
theorem runTurns_loadTurns (sp : Space) (n : Nat) :
    ∀ (k : Nat) (s : State), s.agenda = loadTurns sp k n → s.busy = false → k + n ≤ s.cap sp →
      runTurns n s = .next { s with agenda := [], replies := (readReplies s sp k n).reverse ++ s.replies } := by
  induction n with
  | zero =>
    intro k s ha _ _
    cases s
    simp only [loadTurns] at ha
    subst ha
    rfl
  | succ n ih =>
    intro k s ha hb hc
    obtain ⟨u, hu⟩ : ∃ u : State, u = { s with
      agenda := loadTurns sp (k + 1) n, replies := .buf sp k (s.byteAt sp k) :: s.replies } := ⟨_, rfl⟩
    have hpop : s.popTurn = { s with agenda := loadTurns sp (k + 1) n } := by simp [State.popTurn, ha, loadTurns]
    have hbyte : ∀ sp' j, s.popTurn.byteAt sp' j = s.byteAt sp' j := fun sp' _ => by cases sp' <;> rfl
    have hs : step s = .next u := by
      have hk : k < s.popTurn.cap sp := Nat.lt_of_lt_of_le (by omega) (show s.cap sp ≤ s.popTurn.cap sp by cases sp <;> rfl)
      have hb' : s.popTurn.busy = false := hb
      simp only [step, nextWork, ha, loadTurns, hostWork, hostAccess, hostBuffer, hb', if_pos hk, Bool.false_eq_true,
        if_false, hbyte]
      rw [hpop, hu]
      rfl
    have hcap : u.cap sp = s.cap sp := by subst hu; cases sp <;> rfl
    have hr : readReplies u sp (k + 1) n = readReplies s sp (k + 1) n := by subst hu; cases sp <;> rfl
    rw [runTurns_step (by simp [ha, loadTurns]) hs,
      ih (k + 1) u (by rw [hu]) (by rw [hu]; exact hb) (by omega), hr, hu]
    simp [readReplies, List.range'_succ]

/-- The bytes of a run of byte reads, at the head of the replies. -/
theorem lastBytes_readReplies (s u : State) (sp : Space) (k n : Nat) (more : List HostReply)
    (h : u.replies = (readReplies s sp k n).reverse ++ more) :
    u.lastBytes n = (List.range' k n).map (s.byteAt sp) := by
  have hl : (readReplies s sp k n).reverse.length = n := by simp [readReplies]
  rw [State.lastBytes, h, List.take_left' hl, List.reverse_reverse, readReplies]
  simp [List.filterMap_map, Function.comp_def, HostReply.byte?]

/-- A host read of `n` bytes at once returns the bytes from `k` on, the lowest index least significant (R69). -/
theorem wideRead_value {s : State} {sp : Space} {k n : Nat} (hb : s.busy = false) (hc : k + n ≤ s.cap sp) :
    ∃ t, runTurns n { s with agenda := wideRead sp k n } = .next t
      ∧ t.wideValue n = natOfBytesLE ((List.range' k n).map (s.byteAt sp)) := by
  refine ⟨_, runTurns_loadTurns sp n k _ rfl hb (by cases sp <;> exact hc), ?_⟩
  rw [State.wideValue, lastBytes_readReplies { s with agenda := wideRead sp k n } _ sp k n s.replies rfl]
  cases sp <;> rfl

@[simp] theorem State.lastRead_reply (s : State) (n : Nat) (v : Word) : (s.reply (.reg n v)).lastRead = v := rfl

/-- A code decodes to the fault that has it. -/
@[simp] theorem FaultCode.ofCode_code (f : FaultCode) : FaultCode.ofCode f.code = some f := by
  cases f <;> rfl

/-- The word of a count that the register holds. -/
@[simp] theorem rawLenWord_toNat {n : Nat} (h : n < 2 ^ 32) : (rawLenWord n).toNat = n := by
  rw [rawLenWord, if_pos h, BitVec.toNat_ofNat, Nat.mod_eq_of_lt h]

/-- After an error nothing was written, whatever the error. -/
@[simp] theorem driverFail_output (status : Word) (s : State) : (driverFail status s).output = none := by
  unfold driverFail
  split <;> rfl

/-- An output file exists only where the last `STATUS` read showed no error: the header was written. -/
theorem driverFinish_output_ne_none {q : Request} {s : State} (h : (driverFinish q s).output ≠ none) :
    s.lastRead.getLsbD 2 = false := by
  cases he : s.lastRead.getLsbD 2 with
  | false => rfl
  | true => exact absurd (by rw [driverFinish, if_pos he, driverFail_output]) h

/-- An output was written only where the type passed the host's check and both files opened; the conversion then ran. -/
theorem driver_output_ne_none {q : Request} {s : State} (h : (driver q s).output ≠ none) :
    ¬ (q.checksType ∧ q.ctype ≠ 0#8) ∧ q.outputOpens = true
      ∧ ∃ data, q.input = .bytes data ∧ driver q s = driverConvert q data s := by
  by_cases hc : q.checksType ∧ q.ctype ≠ 0#8
  · exact absurd (by rw [driver, if_pos hc]) h
  refine ⟨hc, ?_⟩
  rw [driver, if_neg hc] at h ⊢
  cases hi : q.input with
  | missing => simp [hi] at h
  | unopenable => simp [hi] at h
  | bytes data =>
    cases ho : q.outputOpens with
    | false => simp [hi, ho] at h
    | true => exact ⟨rfl, data, rfl, rfl⟩

end Sys2Proof.Machine
end

