-- ==== Sys2Proof/Laws/PerInstr.lean ====
section
/-! SUPPORT. Statements about every instruction as syntax, one lemma per constructor. -/

namespace Sys2Proof.Laws

namespace TableRow

/-- The `match` and `mask` of a `CMDW` row of spec/30_encoding.md R91. -/
structure Fixed where
  fixedBits : Word
  mask : Word

/-- The `CMDW` row of an instruction; a step kind has none. -/
def commandRow : Instr → Option Fixed
  | .unpack => some ⟨0x00000001#32, 0xFFFFFFFF#32⟩
  | .demosaic => some ⟨0x00000002#32, 0xFFFFFFFF#32⟩
  | .convert _ => some ⟨0x00000003#32, 0xFFFF00FF#32⟩
  | .srst => some ⟨0x00000004#32, 0xFFFFFFFF#32⟩
  | .unpkCopy | .unpkOne | .unpkTwo | .dmOO | .dmOE | .dmEO | .dmEE => none

/-- An encoding fits the row when it is a command word with the row's fixed bits, and is a selector when there is
no such row. -/
def fits : Option Fixed → Encoding → Prop
  | some f, .cmdw v => v &&& f.mask = f.fixedBits
  | none, .ustep _ => True
  | none, .dstep _ => True
  | _, _ => False

/-- The encoding of a well-formed instruction has the fixed bits of its row of the opcode table. -/
def Statement (i : Instr) : Prop := i.wellFormed = true → fits (commandRow i) (encode i)

theorem unpack : Statement .unpack := fun _ => rfl
theorem demosaic : Statement .demosaic := fun _ => rfl
theorem convert (c : Nat) : Statement (.convert c) := fun h => by
  have hc : c < 256 := by simpa [Instr.wellFormed] using h
  have key : ∀ b : Fin 256, (0x00000003#32 ||| (BitVec.ofNat 32 b.val <<< 8)) &&& 0xFFFF00FF#32 = 0x00000003#32 := by
    decide +kernel
  exact key ⟨c, hc⟩
theorem srst : Statement .srst := fun _ => rfl
theorem unpkCopy : Statement .unpkCopy := fun _ => trivial
theorem unpkOne : Statement .unpkOne := fun _ => trivial
theorem unpkTwo : Statement .unpkTwo := fun _ => trivial
theorem dmOO : Statement .dmOO := fun _ => trivial
theorem dmOE : Statement .dmOE := fun _ => trivial
theorem dmEO : Statement .dmEO := fun _ => trivial
theorem dmEE : Statement .dmEE := fun _ => trivial

end TableRow

end Sys2Proof.Laws
end

