-- ==== Sys2Proof/Laws/Steps.lean ====
section
/-! SUPPORT. What a step kind can do, said once: if it answers a next state, it wrote its byte or its triple and ended
the step, or it took `BOUNDS`. -/

namespace Sys2Proof.Machine

/-- An unpack step that answers a next state wrote one plane byte and ended the step. -/
theorem execUnpkCopy_next {s t : State} (h : execUnpkCopy s = .next t) :
    s.p < s.caps.plane ∧ ∃ out, t = (s.setByte .plane s.p out).endUnpackStep := by
  obtain ⟨_, h⟩ := withByte_next h
  obtain ⟨h1, h2⟩ := finishUnpack_next h
  exact ⟨h1, _, h2⟩

theorem execUnpkOne_next {s t : State} (h : execUnpkOne s = .next t) :
    s.p < s.caps.plane ∧ ∃ out, t = (s.setByte .plane s.p out).endUnpackStep := by
  obtain ⟨_, h⟩ := withByte_next h
  rcases withSecondByte_next h with ⟨_, _, h⟩ | ⟨_, h⟩ <;>
  · obtain ⟨h1, h2⟩ := finishUnpack_next h
    exact ⟨h1, _, h2⟩

theorem execUnpkTwo_next {s t : State} (h : execUnpkTwo s = .next t) :
    s.p < s.caps.plane ∧ ∃ out, t = (s.setByte .plane s.p out).endUnpackStep := by
  obtain ⟨_, h⟩ := withByte_next h
  rcases withSecondByte_next h with ⟨_, _, h⟩ | ⟨_, h⟩ <;>
  · obtain ⟨h1, h2⟩ := finishUnpack_next h
    exact ⟨h1, _, h2⟩

/-- What a demosaic step can answer: the triple written and the step ended, or `BOUNDS`. -/
def DemosaicNext (s t : State) : Prop :=
  (3 * s.p + 2 < s.caps.rgb ∧ ∃ b g r, t = (s.setTriple b g r).endDemosaicStep)
    ∨ ∃ k, s.npix ≤ k ∧ t = s.raise .bounds s.pix k

/-- One more plane read in front keeps the shape of a demosaic step's answer. -/
theorem withPlane_demosaicNext {k : Nat} {s t : State} {cont : Byte → Result}
    (hc : ∀ x, cont x = .next t → DemosaicNext s t) (h : withPlane k s cont = .next t) : DemosaicNext s t := by
  rcases withPlane_next h with ⟨_, _, h⟩ | ⟨h1, h2⟩
  · exact hc _ h
  · exact .inr ⟨k, h1, h2⟩

theorem finishDemosaic_demosaicNext {b g r : Byte} {s t : State} (h : finishDemosaic b g r s = .next t) :
    DemosaicNext s t :=
  .inl ⟨(finishDemosaic_next h).1, b, g, r, (finishDemosaic_next h).2⟩

theorem execDmOO_next {s t : State} (h : execDmOO s = .next t) : DemosaicNext s t :=
  withPlane_demosaicNext (fun _ => withPlane_demosaicNext fun _ => withPlane_demosaicNext fun _ =>
    finishDemosaic_demosaicNext) h

theorem execDmOE_next {s t : State} (h : execDmOE s = .next t) : DemosaicNext s t :=
  withPlane_demosaicNext (fun _ => withPlane_demosaicNext fun _ => withPlane_demosaicNext fun _ =>
    withPlane_demosaicNext fun _ => finishDemosaic_demosaicNext) h

theorem execDmEO_next {s t : State} (h : execDmEO s = .next t) : DemosaicNext s t :=
  withPlane_demosaicNext (fun _ => withPlane_demosaicNext fun _ => withPlane_demosaicNext fun _ =>
    finishDemosaic_demosaicNext) h

theorem execDmEE_next {s t : State} (h : execDmEE s = .next t) : DemosaicNext s t :=
  withPlane_demosaicNext (fun _ => withPlane_demosaicNext fun _ => withPlane_demosaicNext fun _ =>
    finishDemosaic_demosaicNext) h

end Sys2Proof.Machine
end

