-- ==== Sys2Proof/Tests/Slice0.lean ====
section
/-! SUPPORT. Tests of one operation or one step each, their expected values from spec/95_test_vectors.md and the
examples of the rules, and for every statement with hypotheses a state and operands that meet them. -/

namespace Sys2Proof.Tests

open Sys2Proof.Machine Sys2Proof.Machine.Safe

/-! Small states. -/

/-- An idle block with the capacities 64, 64, 192. -/
def idleFrame (w h d : Nat) : State :=
  { State.resetWith ⟨64, 64, 192⟩ with
    width := BitVec.ofNat 16 w, height := BitVec.ofNat 16 h, bitDepth := BitVec.ofNat 5 d, rawLen := 64#32 }

/-- The cells of a byte list from index 0 on. -/
def cells (bytes : List Nat) : Memory := bytes.zipIdx.map fun x => (x.2, BitVec.ofNat 8 x.1)

/-- A block in the unpack phase at pixel `i`. -/
def unpackAt (w h d i : Nat) (raw : List Nat) : State :=
  { idleFrame w h d with phase := .unpack, pix := BitVec.ofNat 32 i, raw := cells raw }

/-- A block in the demosaic phase at pixel `i`. -/
def demosaicAt (w h i : Nat) (plane : List Nat) : State :=
  { idleFrame w h 10 with phase := .demosaic, pix := BitVec.ofNat 32 i, plane := cells plane }

/-- A block halted by the command word `v` with a fault. -/
def haltedState (f : FaultCode) (v : Word) : State := State.haltedBy f v (idleFrame 2 2 10)

/-- The state with the host's access as the next turn. -/
def withHost (a : HostAccess) (s : State) : State := { s with agenda := [.host a] }

/-- The state with the word `v` about to be presented to `CMD`. -/
def withCommand (v : Word) (s : State) : State := withHost (.regWrite 1 v) s

/-- Whether a step went on, to a state that passes the test. -/
def goesTo (r : Result) (test : State → Bool) : Bool :=
  match r with
  | .next t => test t
  | .fault _ => false
  | .refused _ => false

/-- Whether a step was refused with the given reason. -/
def refusedWith (r : Result) (why : Refusal) : Bool :=
  match r with
  | .next _ => false
  | .fault _ => false
  | .refused x => x == why

/-- Whether the unpack step of pixel `i` writes the byte `b` and counts. -/
def unpacks (i : Instr) (s : State) (b : Byte) : Bool :=
  goesTo (exec i s) fun t => t.byteAt .plane s.p == b && t.p == s.p + 1

/-- Whether the demosaic step of pixel `i` writes the triple and counts. -/
def demosaics (i : Instr) (s : State) (b g r : Byte) : Bool :=
  goesTo (exec i s) fun t => t.tripleAt s.p == ⟨b, g, r⟩ && t.p == s.p + 1

/-! Well-formedness: the one check, and a term it refuses (R98). -/

theorem test_wellFormed_refuses_a_wide_type : Instr.wellFormed (.convert 256) = false := by decide
theorem test_wellFormed_accepts_the_widest_type : Instr.wellFormed (.convert 255) = true := by decide

/-! Decoding: every constructor, its encoding written out bit by bit from the tables of R91, R94 and R95. -/

theorem test_decode_unpack :
    decode (.cmdw 0b00000000_00000000_00000000_00000001#32) = .instr .unpack := by decide
theorem test_decode_demosaic :
    decode (.cmdw 0b00000000_00000000_00000000_00000010#32) = .instr .demosaic := by decide
theorem test_decode_convert :
    decode (.cmdw 0b00000000_00000000_10100101_00000011#32) = .instr (.convert 165) := by decide
theorem test_decode_srst :
    decode (.cmdw 0b00000000_00000000_00000000_00000100#32) = .instr .srst := by decide
theorem test_decode_unpkCopy : decode (.ustep 0b10#2) = .instr .unpkCopy := by decide
theorem test_decode_unpkOne : decode (.ustep 0b00#2) = .instr .unpkOne := by decide
theorem test_decode_unpkTwo : decode (.ustep 0b01#2) = .instr .unpkTwo := by decide
theorem test_decode_dmOO : decode (.dstep 0b11#2) = .instr .dmOO := by decide
theorem test_decode_dmOE : decode (.dstep 0b10#2) = .instr .dmOE := by decide
theorem test_decode_dmEO : decode (.dstep 0b01#2) = .instr .dmEO := by decide
theorem test_decode_dmEE : decode (.dstep 0b00#2) = .instr .dmEE := by decide
theorem test_decode_rejects_es_11 : decode (.ustep 0b11#2) = .reject .noStepKind := by decide

/-- Illegal words at the edges of R93: `OP` 0, 5 and 255, `RSV` 1, and `ARG` 1 with `SRST`. -/
theorem test_decode_rejects_illegal_words :
    [0x00000000#32, 0x00000005#32, 0x000000FF#32, 0x00010001#32, 0x00000104#32, 0x00010003#32].all
      (fun v => decode (.cmdw v) == .reject (.illegalCommand v)) = true := by decide

/-- The table's numbers: 32-bit words, and the selectors under the convention of notes/assumptions/14.md. -/
theorem test_tableWord_rows :
    decodeTableWord 32 1 = some .unpack ∧ decodeTableWord 32 0xFF03 = some (.convert 255)
    ∧ decodeTableWord 8 2 = some .unpkCopy ∧ decodeTableWord 8 3 = some .dmOO
    ∧ decodeTableWord 8 4 = some .dmEE ∧ decodeTableWord 8 5 = some .dmEO
    ∧ decodeTableWord 8 6 = some .dmOE ∧ decodeTableWord 32 0 = none := by decide

/-! Instructions: one or two steps each. -/

/-- R122: an accepted `UNPACK`. -/
theorem test_unpack_starts :
    goesTo (exec .unpack (idleFrame 2 2 10)) (fun t => t.statusWord == 0x11#32 && t.pix == 0#32) = true := by decide

/-- Vector S2. -/
theorem test_unpack_refuses_depth_11 :
    goesTo (exec .unpack (idleFrame 2 2 11))
      (fun t => t.statusWord == 0x234#32 && t.faddr == 1#32 && t.d == 11) = true := by decide

/-- Vector S11: the no-op pass-through, which raises `irq`. -/
theorem test_demosaic_passes_through :
    goesTo (exec .demosaic { idleFrame 2 2 10 with pattern := 1#2, ie := true })
      (fun t => t.statusWord == 0xA#32 && t.pix == 0#32 && t.irq) = true := by decide

/-- Vector S6. -/
theorem test_demosaic_checks_the_dimensions_first :
    goesTo (exec .demosaic { idleFrame 0 2 10 with pattern := 1#2 })
      (fun t => t.statusWord == 0x234#32 && t.faddr == 2#32) = true := by decide

/-- Vector S7: the overwrite of `BITDEPTH` comes before the check that fails. -/
theorem test_convert_overwrites_before_its_checks :
    goesTo (exec (.convert 0) { idleFrame 2 2 0 with rawLen := 0#32 })
      (fun t => t.statusWord == 0x434#32 && t.faddr == 3#32 && t.d == 10) = true := by decide

/-- Vector S13. -/
theorem test_convert_refuses_type_1 :
    goesTo (exec (.convert 1) { idleFrame 2 2 12 with pattern := 1#2 })
      (fun t => t.statusWord == 0x134#32 && t.faddr == 0x103#32 && t.d == 12 && t.pattern == 1#2) = true := by decide

/-- Vector S14: `SRST` in `HALT` and in the middle of a phase; the plane keeps its byte. -/
theorem test_srst_resets_the_registers :
    goesTo (exec .srst (haltedState .argCfg 1#32)) (fun t => decide (AtReset t)) = true
    ∧ goesTo (exec .srst (demosaicAt 2 2 1 [0x55]))
        (fun t => decide (AtReset t) && t.byteAt .plane 0 == 0x55#8) = true := by decide

/-- Vector U3, pixel 1. -/
theorem test_unpkCopy : unpacks .unpkCopy (unpackAt 2 2 8 1 [0x00, 0x7F, 0x80, 0xFF]) 0x7F#8 = true := by decide

/-- Vector U4, pixels 1 (the high nibble) and 2. -/
theorem test_unpkOne :
    unpacks .unpkOne (unpackAt 2 2 4 1 [0xAB, 0x0F]) 0xA0#8 = true
    ∧ unpacks .unpkOne (unpackAt 2 2 4 2 [0xAB, 0x0F]) 0xF0#8 = true := by decide

/-- R154's example: pixel 2 of vector U1. -/
theorem test_unpkTwo : unpacks .unpkTwo (unpackAt 2 2 10 2 [0xFF, 0x03, 0x50, 0x95, 0xAA]) 0x55#8 = true := by decide

/-- Vector U1, pixel 3, the last: the phase ends. -/
theorem test_unpkTwo_ends_the_phase :
    goesTo (exec .unpkTwo (unpackAt 2 2 10 3 [0xFF, 0x03, 0x50, 0x95, 0xAA]))
      (fun t => t.byteAt .plane 3 == 0xAA#8 && t.statusWord == 0x2#32 && t.p == 4) = true := by decide

/-- The four pixels of vector M1. -/
theorem test_dmOO : demosaics .dmOO (demosaicAt 2 2 0 [0x10, 0x20, 0x30, 0x40]) 0x40#8 0x20#8 0x10#8 = true := by decide
theorem test_dmOE : demosaics .dmOE (demosaicAt 2 2 1 [0x10, 0x20, 0x30, 0x40]) 0x40#8 0x28#8 0x10#8 = true := by decide
theorem test_dmEO : demosaics .dmEO (demosaicAt 2 2 2 [0x10, 0x20, 0x30, 0x40]) 0x40#8 0x30#8 0x10#8 = true := by decide
theorem test_dmEE : demosaics .dmEE (demosaicAt 2 2 3 [0x10, 0x20, 0x30, 0x40]) 0x40#8 0x30#8 0x10#8 = true := by decide

/-- Vector M2: the average truncates. -/
theorem test_dmOE_truncates :
    demosaics .dmOE (demosaicAt 2 2 1 [0xFF, 0xFF, 0xFE, 0x01]) 0x01#8 0xFE#8 0xFF#8 = true := by decide

/-- Vector M9: `BOUNDS` at once. -/
theorem test_dmOO_takes_bounds :
    goesTo (exec .dmOO (demosaicAt 1 1 0 [9]))
      (fun t => t.statusWord == 0x534#32 && t.fpix == 0#32 && t.faddr == 2#32 && t.rgb == []) = true := by decide

/-! The host's side. -/

/-- Vector S10: an illegal word in `IDLE`, and again in `HALT`. -/
theorem test_illegal_word :
    goesTo (step (withCommand 0x104#32 (idleFrame 2 2 10)))
      (fun t => t.statusWord == 0x134#32 && t.faddr == 0x104#32) = true
    ∧ goesTo (step (withCommand 0x104#32 (haltedState .argCfg 1#32)))
        (fun t => t == haltedState .argCfg 1#32) = true := by decide

/-- R22, R25: reserved bits are dropped; R34: the configuration is frozen while the block runs. -/
theorem test_register_writes :
    goesTo (step (withHost (.regWrite 3 0x12345678#32) (idleFrame 2 2 10))) (fun t => t.regValue 3 == 0x5678#32) = true
    ∧ goesTo (step (withHost (.regWrite 3 9#32) (demosaicAt 2 2 0 []))) (fun t => t.regValue 3 == 2#32) = true
    ∧ goesTo (step (withHost (.regWrite 0 0xFFFFFFFF#32) (demosaicAt 2 2 0 []))) (fun t => t.regValue 0 == 1#32) = true
    := by decide

/-- R45, R68: a stored byte is read back, and a neighbour keeps its byte. -/
theorem test_buffer_write :
    goesTo (step (withHost (.bufWrite .rgb 1 0xAB#8) { idleFrame 2 2 10 with rgb := cells [1, 2, 3] }))
      (fun t => t.byteAt .rgb 1 == 0xAB#8 && t.byteAt .rgb 2 == 3#8 && t.byteAt .rgb 0 == 1#8) = true := by decide

/-- R69: the word of a read of two bytes has the byte at the lower index as its low byte; and the bytes of a write. -/
theorem test_wide_access :
    (((idleFrame 2 2 10).reply (.buf .raw 4 0x34#8)).reply (.buf .raw 5 0x12#8)).wideValue 2 = 0x1234
    ∧ wideRead .raw 4 2 = [.host (.bufRead .raw 4), .host (.bufRead .raw 5)]
    ∧ wideWrite .raw 4 2 0x1234 = [.host (.bufWrite .raw 4 0x34#8), .host (.bufWrite .raw 5 0x12#8)] := by decide

/-- U1 and U7. -/
theorem test_buffer_refusals :
    refusedWith (step (withHost (.bufRead .raw 0) (unpackAt 2 2 8 0 [1]))) (.hostBufferWhileBusy .raw 0) = true
    ∧ refusedWith (step (withHost (.bufRead .raw 64) (idleFrame 2 2 8))) (.hostBufferPastCapacity .raw 64) = true
    := by decide

/-- R203's bytes for a 4 by 4 frame: `bfSize` 102, `bfOffBits` 54, `biSizeImage` 48. -/
theorem test_bitmap_header :
    (bitmapFile 4 4 (List.replicate 48 0#8)).take 14
      = [0x42#8, 0x4D#8, 102#8, 0#8, 0#8, 0#8, 0#8, 0#8, 0#8, 0#8, 54#8, 0#8, 0#8, 0#8]
    ∧ ((bitmapFile 4 4 (List.replicate 48 0#8)).drop 34).take 4 = [48#8, 0#8, 0#8, 0#8] := by decide

/-- Vector H2, whole. -/
theorem test_bitmap_header_H2 :
    bitmapHeader 2 2 12
      = [0x42, 0x4D, 0x42, 0, 0, 0, 0, 0, 0, 0, 0x36, 0, 0, 0, 0x28, 0, 0, 0, 2, 0, 0, 0, 2, 0, 0, 0, 1, 0, 0x18, 0,
         0, 0, 0, 0, 0x0C, 0, 0, 0, 0, 0, 0, 0, 0, 0, 0, 0, 0, 0, 0, 1, 0, 0, 0, 0].map (BitVec.ofNat 8) := by decide

/-- R207: a sink that takes two bytes a call, and one that fails at the second call. -/
theorem test_write_loop :
    writeLoop [1#8, 2#8, 3#8] [2, 2]
      = ⟨.success, [[1#8, 2#8, 3#8], [3#8]], [1#8, 2#8, 3#8], []⟩
    ∧ writeLoop [1#8, 2#8, 3#8] [2, 0, 7]
      = ⟨.writeFailure, [[1#8, 2#8, 3#8], [3#8]], [1#8, 2#8], [7]⟩ := by decide

/-- The kinds of the `STATUS` words of R231. -/
theorem test_error_kinds :
    [0x134#32, 0x234#32, 0x334#32, 0x434#32].map errorOfStatus
      = [.argumentError, .argumentError, .allocationFailure, .shortRead] := by decide

/-- `withFetchWord` at reset: the first step runs the row. -/
theorem test_fetchWord_runs_srst_and_unpack :
    goesTo (step (State.reset.withFetchWord 32 4)) (fun t => t == State.reset) = true
    ∧ goesTo (step (State.reset.withFetchWord 32 1)) (fun t => t.statusWord == 0x234#32) = true := by decide

/-! Witnesses: for each statement with hypotheses, states and operands that meet all of them, clause by clause, at the
boundary values. -/

/-- The step goes on. -/
abbrev goesOn (r : Result) : Prop := goesTo r (fun _ => true) = true

theorem test_witness_DecodeOfEncodeIsTheInstruction :
    Instr.wellFormed (.convert 0) = true ∧ Instr.wellFormed (.convert 255) = true
    ∧ Instr.wellFormed .dmEE = true := by decide

theorem test_witness_EncoderInvertsTheDecoder :
    decode (.cmdw 0xFF03#32) = .instr (.convert 255) ∧ decode (.dstep 0#2) = .instr .dmEE := by decide

/-- Each row's match; for `CONVERT` at both ends of the argument. -/
theorem test_witness_CommandWordsByMatchAndMask :
    (0x00000003#32 &&& 0xFFFF00FF#32 = 0x00000003#32) ∧ (0x0000FF03#32 &&& 0xFFFF00FF#32 = 0x00000003#32)
    ∧ decode (.cmdw 0x0000FF03#32) = .instr (.convert 255) ∧ decode (.cmdw 0x00000003#32) = .instr (.convert 0)
    := by decide

theorem test_witness_IllegalCommandWords :
    let s := withCommand 0x00000005#32 (idleFrame 2 2 10)
    let u := withCommand 0x00000005#32 (haltedState .argCfg 1#32)
    (s.agenda = .host (.regWrite 1 0x00000005#32) :: [] ∧ s.phase = .idle)
    ∧ (u.agenda = .host (.regWrite 1 0x00000005#32) :: [] ∧ u.phase ≠ .idle)
    ∧ decode (.cmdw 0x00000005#32) = .reject (.illegalCommand 0x00000005#32) := by decide

/-- `D = 8`; `shift + D` at 8 (depth 4, pixel 1); `shift + D` at 9 (depth 9, pixel 0); and the depths 7 and 9 on
the two sides of 8. -/
theorem test_witness_UnpackStepSelection :
    (let s := unpackAt 2 2 8 0 []; s.phase = .unpack ∧ s.agenda = [] ∧ s.d = 8)
    ∧ (let s := unpackAt 2 2 4 1 []; s.phase = .unpack ∧ s.agenda = [] ∧ s.d ≠ 8 ∧ s.d * s.p % 8 + s.d = 8)
    ∧ (let s := unpackAt 2 2 9 0 []; s.phase = .unpack ∧ s.agenda = [] ∧ s.d ≠ 8 ∧ s.d * s.p % 8 + s.d = 9)
    ∧ (7 ∈ Config.legalDepths ∧ 7 * 0 % 8 + 7 ≤ 8 ∧ 7 ≠ 8) ∧ 9 ∈ Config.legalDepths := by decide

theorem test_witness_DemosaicStepSelection :
    ∀ i ∈ [0, 1, 2, 3], (demosaicAt 2 2 i []).phase = .demosaic ∧ (demosaicAt 2 2 i []).agenda = [] := by decide

theorem test_witness_RegisterWritesWhenNotBusy :
    ∀ n ∈ [0, 3, 4, 5, 6, 7],
      (let s := withHost (.regWrite n 0xFFFFFFFF#32) (idleFrame 2 2 10)
       s.agenda = .host (.regWrite n 0xFFFFFFFF#32) :: [] ∧ s.phase = .idle)
      ∧ (let s := withHost (.regWrite n 0xFFFFFFFF#32) (haltedState .argCfg 1#32)
         s.agenda = .host (.regWrite n 0xFFFFFFFF#32) :: [] ∧ s.phase = .halt) := by decide

/-- The numbers 3 and 7, the ends of the range, and 0; a read; and a step of the block in both phases. -/
theorem test_witness_ConfigurationFrozenWhileBusy :
    (∀ n ∈ [0, 3, 7], (withHost (.regWrite n 9#32) (unpackAt 2 2 8 0 [])).agenda = .host (.regWrite n 9#32) :: []
      ∧ (withHost (.regRead n) (demosaicAt 2 2 0 [])).agenda = .host (.regRead n) :: [])
    ∧ (unpackAt 2 2 8 0 []).phase = .unpack ∧ (demosaicAt 2 2 0 []).phase = .demosaic
    ∧ (let s := unpackAt 2 2 8 0 [1]; s.agenda = [] ∧ goesOn (step s))
    ∧ (let s : State := { unpackAt 2 2 8 0 [1] with agenda := [.block] }; s.agenda = .block :: [] ∧ goesOn (step s))
    := by decide

theorem test_witness_AbsentAndReadOnlyRegisters :
    (∀ n ∈ [2, 8, 9, 10, 11, 4294967295],
      (withHost (.regWrite n 9#32) (idleFrame 2 2 8)).agenda = .host (.regWrite n 9#32) :: [])
    ∧ (∀ n ∈ [1, 11], (withHost (.regRead n) (idleFrame 2 2 8)).agenda = .host (.regRead n) :: []) := by decide

theorem test_witness_RegisterReadReturnsItsValue :
    ∀ n ∈ [0, 2, 3, 4, 5, 6, 7, 8, 9, 10],
      (withHost (.regRead n) (idleFrame 2 2 8)).agenda = .host (.regRead n) :: [] := by decide

theorem test_witness_StatusWordLayout :
    (withHost (.regRead 2) (idleFrame 2 2 8)).agenda = .host (.regRead 2) :: []
    ∧ (withHost (.regWrite 2 9#32) (idleFrame 2 2 8)).agenda = .host (.regWrite 2 9#32) :: [] := by decide

/-- One state of each phase that meets the invariant. -/
theorem test_witness_Invariant_idle : Invariant (idleFrame 2 2 10) := ⟨by decide, by decide, by decide, by decide, by decide⟩
theorem test_witness_Invariant_unpack : Invariant (unpackAt 2 2 10 3 [1, 2, 3, 4, 5]) :=
  ⟨by decide, by decide, by decide, by decide, by decide⟩
theorem test_witness_Invariant_chained :
    Invariant { unpackAt 2 2 10 3 [1, 2, 3, 4, 5] with chain := true } :=
  ⟨by decide, by decide, by decide, by decide, by decide⟩
theorem test_witness_Invariant_demosaic : Invariant (demosaicAt 2 2 3 [1, 2, 3, 4]) :=
  ⟨by decide, by decide, by decide, by decide, by decide⟩
theorem test_witness_Invariant_halt : Invariant (haltedState .argCfg 1#32) :=
  ⟨by decide, by decide, by decide, by decide, by decide⟩

/-- StatusWordsThatCanBeRead: each phase, with the invariants above. -/
theorem test_witness_StatusWordsThatCanBeRead :
    (idleFrame 2 2 10).phase = .idle ∧ (unpackAt 2 2 10 3 [1, 2, 3, 4, 5]).phase = .unpack
    ∧ (demosaicAt 2 2 3 [1, 2, 3, 4]).phase = .demosaic ∧ (haltedState .argCfg 1#32).phase = .halt := by decide

theorem test_witness_InterruptIsLowWhileBusy :
    (Invariant (demosaicAt 2 2 3 [1, 2, 3, 4]) ∧ (demosaicAt 2 2 3 [1, 2, 3, 4]).phase = .demosaic)
    ∧ (withHost .sampleIrq (idleFrame 2 2 8)).agenda = .host .sampleIrq :: [] :=
  ⟨⟨test_witness_Invariant_demosaic, by decide⟩, by decide⟩

theorem test_witness_ResetValuesOfEveryRegister :
    (withHost .hardReset (demosaicAt 2 2 1 [])).agenda = .host .hardReset :: [] := by decide

/-- The last index, the capacity, and a busy block. -/
theorem test_witness_HostBufferAccessesFollowOwnership :
    (∀ k ∈ [63, 64],
      (let s := withHost (.bufRead .raw k) (idleFrame 2 2 8)
       s.agenda = .host (.bufRead .raw k) :: [] ∧ s.busy = false ∧ s.cap .raw = 64)
      ∧ (let s := withHost (.bufWrite .raw k 7#8) (idleFrame 2 2 8)
         s.agenda = .host (.bufWrite .raw k 7#8) :: [] ∧ s.busy = false ∧ s.cap .raw = 64))
    ∧ (let s := withHost (.bufRead .rgb 0) (unpackAt 2 2 8 0 [])
       s.agenda = .host (.bufRead .rgb 0) :: [] ∧ s.busy = true)
    ∧ (let s := withHost (.bufWrite .rgb 0 7#8) (unpackAt 2 2 8 0 [])
       s.agenda = .host (.bufWrite .rgb 0 7#8) :: [] ∧ s.busy = true) := by decide

/-- Each word in `IDLE`, an illegal one among them; `SRST` and another word while busy. -/
theorem test_witness_CommandWordPresented :
    ([1#32, 2#32, 3#32, 0xFF03#32, 4#32, 0#32, 5#32].all (fun v =>
      (withCommand v (idleFrame 2 2 8)).agenda == .host (.regWrite 1 v) :: []
        && (withCommand v (idleFrame 2 2 8)).phase == .idle) = true)
    ∧ 3#32 &&& 0xFFFF00FF#32 = 0x00000003#32 ∧ 0xFF03#32 &&& 0xFFFF00FF#32 = 0x00000003#32
    ∧ 5#32 &&& 0xFFFF00FF#32 ≠ 0x00000003#32 ∧ 0#32 &&& 0xFFFF00FF#32 ≠ 0x00000003#32
    ∧ (withCommand 1#32 (unpackAt 2 2 8 0 [])).agenda = .host (.regWrite 1 1#32) :: []
    ∧ (withCommand 1#32 (unpackAt 2 2 8 0 [])).phase ≠ .idle :=
  ⟨by decide, by decide, by decide, by decide, by decide, by decide, by decide⟩

/-- Every check at its last passing value: 8 by 8 pixels of 8 bits fill `RAW_CAP`, `PLANE_CAP` and `RAW_LEN`. -/
theorem test_witness_UnpackStarts :
    let s := idleFrame 8 8 8
    s.phase = .idle ∧ s.w ≠ 0 ∧ s.h ≠ 0 ∧ s.d ∈ Config.legalDepths ∧ s.rawlen = s.caps.raw ∧ s.npix = s.caps.plane
      ∧ s.rawlen = s.rawLen.toNat := by decide

/-- Both clauses, with `PLANE` and `RGB` filled. -/
theorem test_witness_DemosaicStarts :
    ∀ pat ∈ [0#2, 1#2, 3#2], (let s : State := { idleFrame 8 8 10 with pattern := pat }
      s.phase = .idle ∧ s.w ≠ 0 ∧ s.h ≠ 0 ∧ s.npix = s.caps.plane ∧ s.rgblen = s.caps.rgb ∧ s.pattern = pat) := by decide

theorem test_witness_ConvertStarts :
    let s : State := { idleFrame 2 2 0 with rawLen := 5#32, caps := ⟨5, 4, 12⟩ }
    s.phase = .idle ∧ s.w ≠ 0 ∧ s.h ≠ 0 ∧ frameBytes s.npix 10 = s.caps.raw ∧ s.npix = s.caps.plane
      ∧ s.rgblen = s.caps.rgb ∧ frameBytes s.npix 10 = s.rawLen.toNat := by decide

/-- A zero dimension; a type at both ends; an illegal depth; each capacity one short; `RAW_LEN` one short. -/
theorem test_witness_StartChecksInOrder :
    (let s := idleFrame 0 2 10; s.phase = .idle ∧ s.w = 0) ∧ (let s := idleFrame 2 0 10; s.phase = .idle ∧ s.h = 0)
    ∧ (1 ≠ 0 ∧ 1 < 256 ∧ 255 ≠ 0 ∧ 255 < 256)
    ∧ (let s := idleFrame 2 2 11; s.phase = .idle ∧ s.w ≠ 0 ∧ s.h ≠ 0 ∧ s.d ∉ Config.legalDepths)
    ∧ (let s : State := { idleFrame 2 2 10 with caps := ⟨4, 4, 12⟩ }
       s.phase = .idle ∧ s.w ≠ 0 ∧ s.h ≠ 0 ∧ s.d ∈ Config.legalDepths ∧ s.caps.raw + 1 = s.rawlen
         ∧ s.caps.raw + 1 = frameBytes s.npix 10)
    ∧ (let s : State := { idleFrame 2 2 10 with caps := ⟨5, 3, 12⟩ }
       s.phase = .idle ∧ s.w ≠ 0 ∧ s.h ≠ 0 ∧ s.d ∈ Config.legalDepths ∧ s.caps.plane + 1 = s.npix)
    ∧ (let s : State := { idleFrame 2 2 10 with caps := ⟨5, 4, 11⟩ }
       s.phase = .idle ∧ s.w ≠ 0 ∧ s.h ≠ 0 ∧ s.caps.rgb + 1 = s.rgblen)
    ∧ (let s : State := { idleFrame 2 2 10 with caps := ⟨5, 4, 12⟩, rawLen := 4#32 }
       s.phase = .idle ∧ s.w ≠ 0 ∧ s.h ≠ 0 ∧ s.d ∈ Config.legalDepths ∧ s.rawlen = s.caps.raw ∧ s.npix = s.caps.plane
         ∧ s.rgblen = s.caps.rgb ∧ s.rawLen.toNat + 1 = s.rawlen ∧ s.rawLen.toNat + 1 = frameBytes s.npix 10) := by decide

/-- A start that does not halt, for each command. -/
theorem test_witness_CommandFrame :
    ∀ i ∈ [Instr.unpack, Instr.demosaic, Instr.convert 0],
      goesTo (exec i (idleFrame 2 2 10)) (fun t => t.phase != .halt) = true := by decide

/-- The last pixel of a frame that fills the capacities. -/
theorem test_witness_UnpkCopyStoresTheRawByte :
    let s := unpackAt 8 8 8 63 []; s.p < s.npix ∧ s.p + 1 = s.caps.raw ∧ s.p + 1 = s.caps.plane := by decide

/-- The first pixel of a byte, and the last, at `shift + D = 8`, where the second byte is past the frame. -/
theorem test_witness_UnpkOneStoresTheScaledField :
    ∀ i ∈ [0, 3], (let s := unpackAt 2 2 4 i [0xAB, 0x0F]
      s.p < s.npix ∧ s.p < s.caps.plane ∧ s.d * s.p / 8 < s.caps.raw
        ∧ (s.d * s.p / 8 + 1 < s.rawlen → s.d * s.p / 8 + 1 < s.caps.raw) ∧ s.d * s.p % 8 + s.d ≤ 8) := by decide

/-- `shift + D` at 9, and the last pixel of depth 10, whose second byte is the last of the frame. -/
theorem test_witness_UnpkTwoStoresTheJoinedSample :
    (let s := unpackAt 3 2 3 2 []
     s.p < s.npix ∧ s.p < s.caps.plane ∧ s.d ∈ Config.legalDepths ∧ s.d * s.p % 8 + s.d = 9
        ∧ s.d * s.p / 8 + 1 < s.rawlen ∧ s.d * s.p / 8 + 1 < s.caps.raw)
    ∧ (let s := unpackAt 2 2 10 3 []
       s.p < s.npix ∧ s.p < s.caps.plane ∧ s.d ∈ Config.legalDepths ∧ 8 < s.d * s.p % 8 + s.d
        ∧ s.d * s.p / 8 + 2 = s.rawlen ∧ s.d * s.p / 8 + 1 < s.caps.raw) := by decide

/-- Each of the three kinds. -/
theorem test_witness_UnpackStepsComputeTheSample :
    ∀ x ∈ [(8, Instr.unpkCopy), (4, Instr.unpkOne), (10, Instr.unpkTwo)],
      (let s := unpackAt 2 2 x.1 3 []
       s.p < s.npix ∧ s.d ∈ Config.legalDepths ∧ s.rawlen ≤ s.caps.raw ∧ s.npix ≤ s.caps.plane
         ∧ decode (.ustep s.ustepSelector) = .instr x.2) := by decide

/-- The least and the full-scale sample of the depths 1, 7, 8, 9 and 16. -/
theorem test_witness_ScalingIsAShift :
    ∀ d ∈ [1, 7, 8, 9, 16], d ∈ Config.legalDepths ∧ 0 < 2 ^ d ∧ 2 ^ d - 1 < 2 ^ d := by decide

theorem test_witness_LegalDepthsNeedNoThirdByte : (0 < 32 ∧ 31 < 32) ∧ 11 * 7 % 8 + 11 = 16 ∧ 11 * 5 % 8 + 11 = 18 := by decide

/-- A span at the last sample of a frame, and no span. -/
theorem test_witness_RawReadsStayInsideTheFrame :
    (10 ∈ Config.legalDepths ∧ 3 < 4 ∧ 8 < shiftOf 10 3 + 10) ∧ (4 ∈ Config.legalDepths ∧ ¬ 8 < shiftOf 4 3 + 4) := by decide

/-- Pixels 0 to 3 of a 2 by 2 frame: each kind's largest index is the last of the plane. -/
theorem test_witness_DmOOWritesItsTriple :
    let s := demosaicAt 2 2 0 [1, 2, 3, 4]
    s.p < s.npix ∧ s.npix ≤ s.caps.plane ∧ s.rgblen ≤ s.caps.rgb
      ∧ s.p / s.w + 1 = 1 ∧ s.p % s.w + 1 = 1 ∧ s.w * 1 + 1 + 1 = s.npix := by decide
theorem test_witness_DmOEWritesItsTriple :
    let s := demosaicAt 2 2 1 [1, 2, 3, 4]
    s.p < s.npix ∧ s.npix ≤ s.caps.plane ∧ s.rgblen ≤ s.caps.rgb
      ∧ s.p / s.w + 1 = 1 ∧ s.p % s.w + 1 = 2 ∧ 2 ≤ 2 ∧ s.w * 1 + 2 - 1 + 1 = s.npix := by decide
theorem test_witness_DmEOWritesItsTriple :
    let s := demosaicAt 2 2 2 [1, 2, 3, 4]
    s.p < s.npix ∧ s.npix ≤ s.caps.plane ∧ s.rgblen ≤ s.caps.rgb
      ∧ s.p / s.w + 1 = 2 ∧ s.p % s.w + 1 = 1 ∧ 2 ≤ 2 ∧ s.w * (2 - 1) + 1 + 1 = s.npix := by decide
theorem test_witness_DmEEWritesItsTriple :
    let s := demosaicAt 2 2 3 [1, 2, 3, 4]
    s.p < s.npix ∧ s.npix ≤ s.caps.plane ∧ s.rgblen ≤ s.caps.rgb
      ∧ s.p / s.w + 1 = 2 ∧ s.p % s.w + 1 = 2 ∧ 2 ≤ 2 := by decide

/-- Each clause with the index at `NPIX` or just past it: one column, a last line, and an odd width. -/
theorem test_witness_DemosaicStepTakesBounds :
    (let s := demosaicAt 1 2 0 []; s.p / s.w + 1 = 1 ∧ s.p % s.w + 1 = 1 ∧ s.npix = s.w * 1 + 1 ∧ s.p < s.npix)
    ∧ (let s := demosaicAt 2 1 1 []; s.p / s.w + 1 = 1 ∧ s.p % s.w + 1 = 2 ∧ s.npix ≤ s.w * 1 + 2 - 1)
    ∧ (let s := demosaicAt 1 2 1 []; s.p / s.w + 1 = 2 ∧ s.p % s.w + 1 = 1 ∧ s.npix = s.w * (2 - 1) + 1) := by decide

/-- Each kind, in range and, but for `DM.EE`, out of range. -/
theorem test_witness_DemosaicStepsComputeThePixel :
    (∀ x ∈ [(0, Instr.dmOO), (1, Instr.dmOE), (2, Instr.dmEO), (3, Instr.dmEE)],
      (let s := demosaicAt 2 2 x.1 [1, 2, 3, 4]
       s.p < s.npix ∧ s.npix ≤ s.caps.plane ∧ s.rgblen ≤ s.caps.rgb
         ∧ decode (.dstep s.dstepSelector) = .instr x.2 ∧ largestIndex s.w s.p < s.npix))
    ∧ (∀ x ∈ [(0, Instr.dmOO), (1, Instr.dmOE)],
      (let s := demosaicAt 2 1 x.1 [1, 2]
       s.p < s.npix ∧ s.npix ≤ s.caps.plane ∧ s.rgblen ≤ s.caps.rgb
         ∧ decode (.dstep s.dstepSelector) = .instr x.2 ∧ s.npix ≤ largestIndex s.w s.p))
    ∧ (let s := demosaicAt 1 2 1 [1, 2]
       s.p < s.npix ∧ s.npix ≤ s.caps.plane ∧ s.rgblen ≤ s.caps.rgb
         ∧ decode (.dstep s.dstepSelector) = .instr .dmEO ∧ s.npix ≤ largestIndex s.w s.p) := by decide

/-- A step of the block that ends a phase, and an access of the host. -/
theorem test_witness_StepKeepsTheInvariant :
    Invariant (unpackAt 2 2 10 3 [1, 2, 3, 4, 5]) ∧ goesOn (step (unpackAt 2 2 10 3 [1, 2, 3, 4, 5])) :=
  ⟨test_witness_Invariant_unpack, by decide⟩

/-- A state that meets the invariant and whose step is refused. -/
theorem test_witness_InvariantExcludesFaults :
    Invariant (withHost (.bufRead .raw 0) (unpackAt 2 2 10 3 [1, 2, 3, 4, 5]))
    ∧ step (withHost (.bufRead .raw 0) (unpackAt 2 2 10 3 [1, 2, 3, 4, 5]))
        = .refused (.hostBufferWhileBusy .raw 0) :=
  ⟨⟨by decide, by decide, by decide, by decide, by decide⟩, rfl⟩

/-- For BlockStepMakesProgress and EveryRunEnds. -/
theorem test_witness_BlockStepMakesProgress_EveryRunEnds :
    Invariant (demosaicAt 2 2 3 [1, 2, 3, 4]) ∧ (demosaicAt 2 2 3 [1, 2, 3, 4]).busy = true
    ∧ (demosaicAt 2 2 3 [1, 2, 3, 4]).agenda = [] :=
  ⟨test_witness_Invariant_demosaic, by decide, by decide⟩

theorem test_witness_PixNeverDecreasesWithinAPhase :
    Invariant (demosaicAt 2 2 0 [1, 2, 3, 4]) ∧ (demosaicAt 2 2 0 [1, 2, 3, 4]).busy = true
    ∧ goesTo (step (demosaicAt 2 2 0 [1, 2, 3, 4])) (fun t => t.phase == .demosaic) = true :=
  ⟨⟨by decide, by decide, by decide, by decide, by decide⟩, by decide, by decide⟩

/-- Both ways out of `HALT`, and a step that stays there. -/
theorem test_witness_OnlyResetLeavesHalt :
    ∀ s ∈ [withCommand 4#32 (haltedState .argCfg 1#32), withHost .hardReset (haltedState .argCfg 1#32),
      withCommand 1#32 (haltedState .argCfg 1#32)], s.phase = .halt ∧ goesOn (step s) := by decide

theorem test_witness_InstructionsKeepTheirSpaces :
    goesOn (exec .unpkCopy (unpackAt 2 2 8 0 [1])) ∧ goesOn (exec .dmEE (demosaicAt 2 2 3 [1, 2, 3, 4])) := by decide

theorem test_witness_CapacitiesNeverChange : goesOn (step (withHost .hardReset (idleFrame 2 2 8))) := by decide

/-- A command word; a step of each phase with an empty agenda and with the block's turn; and no step to take. -/
theorem test_witness_StepRunsTheDecodedInstruction :
    ((withCommand 3#32 (idleFrame 2 2 8)).agenda = .host (.regWrite 1 3#32) :: []
      ∧ decode (.cmdw 3#32) = .instr (.convert 0))
    ∧ (let s := unpackAt 2 2 10 0 []; s.agenda = [] ∧ s.phase = .unpack ∧ decode (.ustep s.ustepSelector) = .instr .unpkTwo)
    ∧ (let s : State := { demosaicAt 2 2 1 [] with agenda := [.block] }
       s.agenda = .block :: [] ∧ s.phase = .demosaic ∧ decode (.dstep s.dstepSelector) = .instr .dmOE)
    ∧ (let s := idleFrame 2 2 10; s.agenda = [] ∧ s.phase = .idle) := by decide

theorem test_witness_FetchWordRunsTheTableRow :
    decodeTableWord 32 2 = some .demosaic ∧ decodeTableWord 8 0 = some .unpkOne ∧ decodeTableWord 8 7 = some .dmOO := by decide

/-- The least frame, 1 by 1, at depth 1, and a frame that fills the memories. -/
theorem test_witness_UnpackRunLeavesThePlane :
    ∀ x ∈ [(1, 1), (8, 8)], (let s := withCommand 0x00000001#32 (idleFrame x.1 x.1 x.2)
      s.phase = .idle ∧ s.agenda = [.host (.regWrite 1 0x00000001#32)] ∧ s.w ≠ 0 ∧ s.h ≠ 0
        ∧ s.d ∈ Config.legalDepths ∧ s.rawlen ≤ s.caps.raw ∧ s.npix ≤ s.caps.plane ∧ s.rawlen ≤ s.rawLen.toNat) := by decide

/-- Vector U1: the samples 3FF, 000, 155, 2AA. -/
theorem test_witness_UnpackInvertsThePacking :
    let s : State := { withCommand 0x00000001#32 (idleFrame 2 2 10) with raw := cells [0xFF, 0x03, 0x50, 0x95, 0xAA] }
    let v : Nat → Nat := fun i => [0x3FF, 0x000, 0x155, 0x2AA].getD i 0
    (s.phase = .idle ∧ s.agenda = [.host (.regWrite 1 0x00000001#32)] ∧ s.w ≠ 0 ∧ s.h ≠ 0
      ∧ s.d ∈ Config.legalDepths ∧ s.rawlen ≤ s.caps.raw ∧ s.npix ≤ s.caps.plane ∧ s.rawlen ≤ s.rawLen.toNat)
    ∧ ∀ i < s.npix, v i < 2 ^ s.d ∧ ∀ k < s.d, rawBit (s.byteAt .raw) (s.d * i + k) = v i / 2 ^ k % 2 := by
  refine ⟨by decide, by decide⟩

/-- Vector U16, and the same frame with its pad bits clear. -/
theorem test_witness_PaddingBitsNeverReachThePlane :
    let s := unpackAt 3 1 3 2 [0xD5, 0xFF]
    let m := cells [0xD5, 0x01]
    (s.p < s.npix ∧ s.d ∈ Config.legalDepths ∧ s.rawlen ≤ s.caps.raw ∧ s.npix ≤ s.caps.plane
      ∧ decode (.ustep s.ustepSelector) = .instr .unpkTwo)
    ∧ (∀ g < s.d * s.npix, rawBit (s.byteAt .raw) g = rawBit (({ s with raw := m } : State).byteAt .raw) g)
    ∧ s.raw ≠ m := by
  refine ⟨by decide, by decide, by decide⟩

/-- For DemosaicRunOfAnEvenFrame and CellColoursOfAnEvenFrame: the least even frame and one that fills the memories. -/
theorem test_witness_DemosaicRunOfAnEvenFrame_CellColoursOfAnEvenFrame :
    ∀ n ∈ [2, 8], (let s := withCommand 0x00000002#32 (idleFrame n n 10)
      s.phase = .idle ∧ s.agenda = [.host (.regWrite 1 0x00000002#32)] ∧ s.w ≠ 0 ∧ s.h ≠ 0 ∧ s.w % 2 = 0
        ∧ s.h % 2 = 0 ∧ s.pattern = 0#2 ∧ s.npix ≤ s.caps.plane ∧ s.rgblen ≤ s.caps.rgb
        ∧ 0 < s.w / 2 ∧ 0 < s.h / 2) := by decide

/-- An odd height, an odd width, and both. -/
theorem test_witness_DemosaicRunOfAnOddFrameFaults :
    ∀ x ∈ [(1, 1), (2, 3), (3, 2)], (let s := withCommand 0x00000002#32 (idleFrame x.1 x.2 10)
      s.phase = .idle ∧ s.agenda = [.host (.regWrite 1 0x00000002#32)] ∧ s.w ≠ 0 ∧ s.h ≠ 0
        ∧ (s.w % 2 = 1 ∨ s.h % 2 = 1) ∧ s.pattern = 0#2 ∧ s.npix ≤ s.caps.plane ∧ s.rgblen ≤ s.caps.rgb) := by decide

theorem test_witness_ConvertRunOfAnEvenFrame :
    let s := withCommand 0x00000003#32 (idleFrame 2 2 0)
    s.phase = .idle ∧ s.agenda = [.host (.regWrite 1 0x00000003#32)] ∧ s.w ≠ 0 ∧ s.h ≠ 0 ∧ s.w % 2 = 0 ∧ s.h % 2 = 0
      ∧ frameBytes s.npix 10 ≤ s.caps.raw ∧ s.npix ≤ s.caps.plane ∧ s.rgblen ≤ s.caps.rgb
      ∧ frameBytes s.npix 10 ≤ s.rawLen.toNat := by decide

/-- A busy and an idle block. -/
theorem test_witness_WaitPollsUntilNotBusy :
    (let s : State := { demosaicAt 2 2 1 [] with agenda := [.wait] }; s.agenda = .wait :: [] ∧ s.busy = true)
    ∧ (let s : State := { idleFrame 2 2 8 with agenda := [.wait] }; s.agenda = .wait :: [] ∧ s.busy = false) := by decide

/-- A request for a 2 by 2 frame of type `c` whose host checks the type. -/
def request (c : Byte) (input : HostInput) (opens : Bool) : Request :=
  ⟨2#16, 2#16, c, true, input, opens, List.replicate 66 1⟩

/-- A failing sink, and a sink of one byte a call that is just long enough. -/
theorem test_witness_WriteLoopWritesAPrefix :
    (writeLoop [1#8, 2#8] [1, 0]).result = .writeFailure ∧ (writeLoop [1#8, 2#8] [1, 0]).calls.length = 2
    ∧ (∀ n ∈ [(1 : Int), 1], 0 < n) ∧ [1#8, 2#8].length = [(1 : Int), 1].length := by decide

/-- Each way to end, and a halted block whose `STATUS` was read. -/
theorem test_witness_DriverEndsWithoutOutput :
    (let q := request 1#8 (.bytes []) true; q.checksType = true ∧ q.ctype ≠ 0#8)
    ∧ (request 0#8 .missing true).input = .missing
    ∧ (let q := request 0#8 .unopenable true; q.ctype = 0#8 ∧ q.input = .unopenable)
    ∧ (let q := request 0#8 (.bytes []) false; q.ctype = 0#8 ∧ q.input = .bytes [] ∧ q.outputOpens = false)
    ∧ (let q : Request := { request 1#8 (.bytes [1#8, 2#8]) true with checksType := false }
       let s : State := State.resetWith ⟨2, 4, 12⟩
       q.checksType = false ∧ q.ctype ≠ 0#8 ∧ q.input = .bytes [1#8, 2#8] ∧ q.outputOpens = true ∧ s.phase = .idle
         ∧ (q.obtained [1#8, 2#8]).length = s.caps.raw)
    ∧ (let s := (haltedState .bounds 1#32).reply (.reg 2 0x534#32)
       s.phase = .halt ∧ s.ecode = some .bounds ∧ s.lastRead = s.statusWord) := by decide

/-- The least even frame, in memories it just fits, with an input of just the frame's length. -/
theorem test_witness_DriverWritesTheBitmap :
    let q := request 0#8 (.bytes [0xFF#8, 0x03#8, 0x50#8, 0x95#8, 0xAA#8]) true
    let s : State := State.resetWith ⟨5, 4, 12⟩
    (2 = q.width.toNat ∧ 2 = q.height.toNat ∧ q.ctype = 0#8 ∧ q.outputOpens = true
      ∧ q.input = .bytes [0xFF#8, 0x03#8, 0x50#8, 0x95#8, 0xAA#8] ∧ s.phase = .idle ∧ s.caps.legal)
    ∧ (frameBytes (2 * 2) 10 = s.caps.raw ∧ 2 * 2 = s.caps.plane ∧ 3 * (2 * 2) = s.caps.rgb
      ∧ frameBytes (2 * 2) 10 = [0xFF#8, 0x03#8, 0x50#8, 0x95#8, 0xAA#8].length)
    ∧ ((∀ n ∈ q.sink, 0 < n) ∧ 54 + 3 * (2 * 2) = q.sink.length) :=
  ⟨by decide, by decide, by decide⟩

end Sys2Proof.Tests
end

section
/-! The capacities are parameters (spec/00_scope.md R5): each operation of the model keeps the field that holds them,
and so does every step. -/

namespace Sys2Proof.Machine

/-! The commands: accepted, refused with a fault, or dropped. -/

@[simp] theorem State.startFault_caps (f : FaultCode) (v : Word) (s : State) : (s.startFault f v).caps = s.caps := rfl

@[simp] theorem State.fixConversion_caps (s : State) : s.fixConversion.caps = s.caps := rfl

@[simp] theorem startUnpack_caps (v : Word) (s : State) : (startUnpack v s).caps = s.caps := by
  rcases startUnpack_cases v s with ⟨f, -, hfault⟩ | ⟨-, -, -, -, -, -, hstart⟩
  · rw [hfault, State.startFault_caps]
  · rw [hstart]

@[simp] theorem startDemosaic_caps (v : Word) (s : State) : (startDemosaic v s).caps = s.caps := by
  rcases startDemosaic_cases v s with ⟨f, -, hfault⟩ | ⟨-, hnoop⟩ | ⟨-, -, -, -, -, hstart⟩
  · rw [hfault, State.startFault_caps]
  · rw [hnoop]
  · rw [hstart]

@[simp] theorem startConvert_caps (c : Nat) (v : Word) (s : State) : (startConvert c v s).caps = s.caps := by
  rcases startConvert_cases c v s with ⟨f, -, hfault | hfault⟩ | ⟨-, -, -, -, -, -, -, hstart⟩
  · rw [hfault, State.startFault_caps]
  · rw [hfault, State.startFault_caps, State.fixConversion_caps]
  · rw [hstart, State.fixConversion_caps]

/-- Presenting a command keeps the capacities when its start does. -/
theorem present_caps {start : State → State} (hstart : ∀ u, (start u).caps = u.caps) (s : State) :
    (s.present start).caps = s.caps := by
  rcases present_cases start s with ⟨-, h⟩ | ⟨-, h⟩
  · rw [h, hstart, State.clearCompletion_caps]
  · rw [h]

/-! The step kinds: the byte or the triple written and the step ended, or `BOUNDS`. -/

@[simp] theorem State.setTriple_caps (s : State) (b g r : Byte) : (s.setTriple b g r).caps = s.caps := by
  simp [State.setTriple]

/-- The write-back of an unpack step keeps the capacities. -/
theorem setByte_endUnpackStep_caps {s t : State}
    (h : s.p < s.caps.plane ∧ ∃ out, t = (s.setByte .plane s.p out).endUnpackStep) : t.caps = s.caps := by
  obtain ⟨-, out, rfl⟩ := h
  rw [State.endUnpackStep_caps, State.setByte_caps]

theorem DemosaicNext.caps_eq {s t : State} (h : DemosaicNext s t) : t.caps = s.caps := by
  rcases h with ⟨-, b, g, r, rfl⟩ | ⟨k, -, rfl⟩
  · rw [State.endDemosaicStep_caps, State.setTriple_caps]
  · rw [State.raise_caps]

/-- No instruction changes the capacities. -/
theorem exec_caps (i : Instr) {s t : State} (h : exec i s = .next t) : t.caps = s.caps := by
  cases i with
  | unpack =>
    obtain rfl := Host.Outcome.next.inj h
    exact present_caps (startUnpack_caps _) s
  | demosaic =>
    obtain rfl := Host.Outcome.next.inj h
    exact present_caps (startDemosaic_caps _) s
  | convert c =>
    obtain rfl := Host.Outcome.next.inj h
    exact present_caps (startConvert_caps c _) s
  | srst =>
    obtain rfl := Host.Outcome.next.inj h
    exact State.softReset_caps s
  | unpkCopy => exact setByte_endUnpackStep_caps (execUnpkCopy_next h)
  | unpkOne => exact setByte_endUnpackStep_caps (execUnpkOne_next h)
  | unpkTwo => exact setByte_endUnpackStep_caps (execUnpkTwo_next h)
  | dmOO => exact (execDmOO_next h).caps_eq
  | dmOE => exact (execDmOE_next h).caps_eq
  | dmEO => exact (execDmEO_next h).caps_eq
  | dmEE => exact (execDmEE_next h).caps_eq

theorem presentIllegal_caps {v : Word} {s t : State} (h : presentIllegal v s = .next t) : t.caps = s.caps := by
  obtain rfl := Host.Outcome.next.inj h
  exact present_caps (State.startFault_caps .argCmd v) s

/-! The host's accesses. -/

@[simp] theorem State.regWrite_caps (s : State) (n : Nat) (v : Word) : (s.regWrite n v).caps = s.caps := by
  rcases regWrite_cases s n v with h | ⟨-, h⟩ | ⟨-, ⟨-, h⟩ | ⟨-, h⟩ | ⟨-, h⟩ | ⟨-, h⟩ | ⟨-, h⟩⟩ <;> rw [h]

/-- No access of the host changes the capacities. -/
theorem hostAccess_caps (a : HostAccess) {s t : State} (h : hostAccess a s = .next t) : t.caps = s.caps := by
  cases a with
  | regRead n =>
    obtain rfl := Host.Outcome.next.inj h
    exact State.reply_caps s _
  | regWrite n v =>
    obtain rfl := Host.Outcome.next.inj h
    exact State.regWrite_caps s n v
  | bufRead sp k =>
    obtain ⟨-, -, rfl⟩ := hostBuffer_next h
    exact State.reply_caps s _
  | bufWrite sp k b =>
    obtain ⟨-, -, rfl⟩ := hostBuffer_next h
    exact State.setByte_caps s sp k b
  | hardReset =>
    obtain rfl := Host.Outcome.next.inj h
    exact State.hardReset_caps s
  | sampleIrq =>
    obtain rfl := Host.Outcome.next.inj h
    exact State.reply_caps s _

/-- A poll of `STATUS` keeps the capacities, whether the host polls again or not. -/
theorem pollStatus_caps {s t : State} (h : pollStatus s = .next t) : t.caps = s.caps := by
  unfold pollStatus at h
  dsimp only at h
  split at h
  · obtain rfl := Host.Outcome.next.inj h
    exact State.reply_caps s (.reg 2 s.statusWord)
  · obtain rfl := Host.Outcome.next.inj h
    exact State.reply_caps s (.reg 2 s.statusWord)

/-- Settles O46, by the kinds of work a step can do. -/
theorem capacitiesNeverChange : Obligations.CapacitiesNeverChange := by
  intro s t h
  rw [← State.popTurn_caps s]
  rcases step_cases s with
    ⟨i, -, hrun⟩ | ⟨v, -, hillegal⟩ | ⟨a, -, haccess⟩ | ⟨-, hpoll⟩ | ⟨-, hrest⟩ | ⟨-, hnoKind⟩
  · exact exec_caps i (hrun.symm.trans h)
  · exact presentIllegal_caps (hillegal.symm.trans h)
  · exact hostAccess_caps a (haccess.symm.trans h)
  · exact pollStatus_caps (hpoll.symm.trans h)
  · rw [Host.Outcome.next.inj (hrest.symm.trans h)]
  · cases hnoKind.symm.trans h

end Sys2Proof.Machine
end

section
/-! The register interface (spec/10_state.md R21 to R34, R43): the fields of the `STATUS` word, what a read of a
register returns, what a write of one stores, and which turns of the host are such an access. -/

namespace Sys2Proof.Machine

open Safe

/-! Ownership and the interrupt level. -/

theorem State.busy_iff (s : State) : s.busy = true ↔ s.phase = .unpack ∨ s.phase = .demosaic := by
  simp [State.busy]

theorem State.busy_eq_false_iff (s : State) : s.busy = false ↔ s.phase = .idle ∨ s.phase = .halt := by
  cases hphase : s.phase <;> simp [State.busy, hphase]

theorem State.err_iff (s : State) : s.err = true ↔ s.phase = .halt := by
  simp [State.err]

theorem State.irq_iff (s : State) : s.irq = true ↔ s.ie = true ∧ (s.done = true ∨ s.phase = .halt) := by
  simp [State.irq, State.err_iff]

/-! The fields of the `STATUS` word (R24). -/

/-- Bits 3 to 0: `PATNOP`, `ERR`, `DONE`, `BUSY`. -/
theorem State.statusWord_flags (s : State) :
    s.statusWord.getLsbD 0 = s.busy ∧ s.statusWord.getLsbD 1 = s.done ∧ s.statusWord.getLsbD 2 = s.err
      ∧ s.statusWord.getLsbD 3 = s.patnop := by
  simp only [State.statusWord, BitVec.getLsbD_append]
  exact ⟨BitVec.getLsbD_ofBool .., BitVec.getLsbD_ofBool .., BitVec.getLsbD_ofBool .., BitVec.getLsbD_ofBool ..⟩

/-- The fields above the flags: `PHASE` at 5:4, `ECODE` at 11:8, and the reserved bits. -/
theorem State.statusWord_fields (s : State) :
    s.statusWord.extractLsb' 4 2 = s.phase.code ∧ s.statusWord.extractLsb' 6 2 = 0#2
      ∧ s.statusWord.extractLsb' 8 4 = ecodeBits s.ecode ∧ s.statusWord.extractLsb' 12 20 = 0#20 := by
  simp (disch := decide) only [State.statusWord, BitVec.extractLsb'_append_eq_of_le,
    BitVec.extractLsb'_append_eq_of_add_le]
  exact ⟨BitVec.extractLsb'_eq_self, rfl, BitVec.extractLsb'_eq_self, rfl⟩

/-- The `STATUS` word written with the four fields it is assembled from as they are in one state. -/
theorem State.statusWord_eq {s : State} {phase : Phase} {ecode : Option FaultCode} {patnop done : Bool}
    (hphase : s.phase = phase) (hecode : s.ecode = ecode) (hpatnop : s.patnop = patnop) (hdone : s.done = done) :
    s.statusWord = 0#20 ++ ecodeBits ecode ++ 0#2 ++ phase.code ++ BitVec.ofBool patnop
      ++ BitVec.ofBool (phase = .halt) ++ BitVec.ofBool done ++ BitVec.ofBool (phase = .unpack || phase = .demosaic) := by
  subst hphase hecode hpatnop hdone
  rfl

/-! What the flag relations of R37 leave of a flag outside its phase. -/

theorem Safe.FlagsOk.ecode_ne_none {s : State} (h : FlagsOk s) (hphase : s.phase = .halt) : s.ecode ≠ none := by
  obtain ⟨hhalt, -⟩ := h
  exact hhalt.1 hphase

theorem Safe.FlagsOk.ecode_eq_none {s : State} (h : FlagsOk s) (hphase : s.phase ≠ .halt) : s.ecode = none := by
  obtain ⟨hhalt, -⟩ := h
  exact not_not.1 fun hne => hphase (hhalt.2 hne)

theorem Safe.FlagsOk.done_eq_false {s : State} (h : FlagsOk s) (hphase : s.phase ≠ .idle) : s.done = false := by
  obtain ⟨-, hdone, -⟩ := h
  exact Bool.eq_false_iff.2 fun hset => hphase (hdone hset)

theorem Safe.FlagsOk.patnop_eq_false {s : State} (h : FlagsOk s) (hdone : s.done = false) : s.patnop = false := by
  obtain ⟨-, -, hpatnop, -⟩ := h
  exact Bool.eq_false_iff.2 fun hset => Bool.eq_false_iff.1 hdone (hpatnop hset)

theorem Safe.FlagsOk.chain_eq_false {s : State} (h : FlagsOk s) (hphase : s.phase ≠ .unpack) : s.chain = false := by
  obtain ⟨-, -, -, hchain⟩ := h
  exact Bool.eq_false_iff.2 fun hset => hphase (hchain hset)

/-! A field of `k` bits keeps the low `k` bits of the word written and reads back with the others 0. -/

theorem setWidth_setWidth_eq_and {k : Nat} (hk : k ≤ 32) (v : Word) :
    (v.setWidth k).setWidth 32 = v &&& BitVec.ofNat 32 (2 ^ k - 1) := by
  have hpow : 2 ^ k ≤ 2 ^ 32 := Nat.pow_le_pow_right (by decide) hk
  apply BitVec.eq_of_toNat_eq
  rw [BitVec.toNat_and, BitVec.toNat_ofNat, Nat.mod_eq_of_lt (by omega), Nat.and_two_pow_sub_one_eq_mod,
    BitVec.toNat_setWidth, BitVec.toNat_setWidth]
  exact Nat.mod_eq_of_lt ((Nat.mod_lt _ (by positivity)).trans_le hpow)

/-- A field of at most 32 bits reads as its own value. -/
theorem toNat_setWidth_word {k : Nat} (hk : k ≤ 32) (x : BitVec k) : (x.setWidth 32).toNat = x.toNat :=
  BitVec.toNat_setWidth_of_le hk

/-! Writing a register: what each number stores, and which numbers store nothing. -/

theorem State.regWrite_width {s : State} (h : s.busy = false) (v : Word) :
    s.regWrite 3 v = { s with width := v.setWidth 16 } := by
  simp [State.regWrite, State.whenNotBusy, h]

theorem State.regWrite_height {s : State} (h : s.busy = false) (v : Word) :
    s.regWrite 4 v = { s with height := v.setWidth 16 } := by
  simp [State.regWrite, State.whenNotBusy, h]

theorem State.regWrite_bitDepth {s : State} (h : s.busy = false) (v : Word) :
    s.regWrite 5 v = { s with bitDepth := v.setWidth 5 } := by
  simp [State.regWrite, State.whenNotBusy, h]

theorem State.regWrite_pattern {s : State} (h : s.busy = false) (v : Word) :
    s.regWrite 6 v = { s with pattern := v.setWidth 2 } := by
  simp [State.regWrite, State.whenNotBusy, h]

theorem State.regWrite_rawLen {s : State} (h : s.busy = false) (v : Word) :
    s.regWrite 7 v = { s with rawLen := v } := by
  simp [State.regWrite, State.whenNotBusy, h]

/-- While the block owns the configuration a write of any register but `CTRL` is ignored (R34). -/
theorem State.regWrite_of_busy {s : State} {n : Nat} (h : s.busy = true) (hn : n ≠ 0) (v : Word) :
    s.regWrite n v = s := by
  rcases regWrite_cases s n v with hsame | ⟨hctrl, -⟩ | ⟨hfree, -⟩
  · exact hsame
  · exact absurd hctrl hn
  · exact absurd (h.symm.trans hfree) (by decide)

/-- A number that names no writable register is ignored in every phase (R33). -/
theorem State.regWrite_of_not_writable {n : Nat} (hctrl : n ≠ 0) (hconfig : ¬ (3 ≤ n ∧ n ≤ 7)) (s : State) (v : Word) :
    s.regWrite n v = s := by
  rcases regWrite_cases s n v with
    hsame | ⟨h, -⟩ | ⟨-, ⟨h, -⟩ | ⟨h, -⟩ | ⟨h, -⟩ | ⟨h, -⟩ | ⟨h, -⟩⟩
  · exact hsame
  all_goals omega

/-- A number from 11 up reads 0 (R33). -/
theorem State.regValue_absent (s : State) {n : Nat} (h : 11 ≤ n) : s.regValue n = 0#32 := by
  obtain ⟨k, rfl⟩ := Nat.exists_eq_add_of_le' h
  rfl

/-! A step that is an access of the host. -/

theorem State.popTurn_eq {s : State} {turn : Turn} {rest : List Turn} (h : s.agenda = turn :: rest) :
    s.popTurn = { s with agenda := rest } := by
  simp [State.popTurn, h]

/-- An access that presents no command is the whole step. -/
theorem step_of_access {s : State} {a : HostAccess} {rest : List Turn} (hagenda : s.agenda = .host a :: rest)
    (ha : hostWork a = .access a) : step s = hostAccess a { s with agenda := rest } := by
  have hwork : nextWork s = .access a := by simp [nextWork, hagenda, ha]
  simp [step, hwork, State.popTurn_eq hagenda]

theorem step_regRead {s : State} {n : Nat} {rest : List Turn} (hagenda : s.agenda = .host (.regRead n) :: rest) :
    step s = .next { s with agenda := rest, replies := .reg n (s.regValue n) :: s.replies } :=
  step_of_access hagenda rfl

theorem step_regWrite {s : State} {n : Nat} {v : Word} {rest : List Turn}
    (hagenda : s.agenda = .host (.regWrite n v) :: rest) (hn : n ≠ 1) :
    step s = .next (State.regWrite { s with agenda := rest } n v) :=
  step_of_access hagenda (if_neg hn)

/-- A write that its register ignores takes the turn and nothing else. -/
theorem step_regWrite_ignored {s : State} {n : Nat} {v : Word} {rest : List Turn}
    (hagenda : s.agenda = .host (.regWrite n v) :: rest) (hn : n ≠ 1)
    (hignored : State.regWrite { s with agenda := rest } n v = { s with agenda := rest }) :
    step s = .next { s with agenda := rest } := by
  rw [step_regWrite hagenda hn, hignored]

/-! The obligations about the registers. -/

/-- Settles O8: in `IDLE` and `HALT` each writable register takes the low bits of the word. -/
theorem registerWritesWhenNotBusy : Obligations.RegisterWritesWhenNotBusy := by
  intro s n v rest hagenda hphase
  have hbusy : State.busy { s with agenda := rest } = false := (State.busy_eq_false_iff s).2 hphase
  refine ⟨?ctrl, ?width, ?height, ?bitDepth, ?pattern, ?rawLen⟩ <;> rintro rfl <;>
    refine ⟨_, step_regWrite hagenda (by decide), ?_⟩
  case ctrl => exact ⟨rfl, BitVec.and_one_eq_setWidth_ofBool_getLsbD.symm⟩
  case width =>
    rw [State.regWrite_width hbusy]
    exact ⟨rfl, setWidth_setWidth_eq_and (by decide) v⟩
  case height =>
    rw [State.regWrite_height hbusy]
    exact ⟨rfl, setWidth_setWidth_eq_and (by decide) v⟩
  case bitDepth =>
    rw [State.regWrite_bitDepth hbusy]
    exact ⟨rfl, setWidth_setWidth_eq_and (by decide) v⟩
  case pattern =>
    rw [State.regWrite_pattern hbusy]
    exact ⟨rfl, setWidth_setWidth_eq_and (by decide) v⟩
  case rawLen =>
    rw [State.regWrite_rawLen hbusy]
    exact ⟨rfl, rfl⟩

/-- Settles O10: such a write is ignored, and such a number reads 0. -/
theorem absentAndReadOnlyRegisters : Obligations.AbsentAndReadOnlyRegisters := by
  intro s n
  constructor
  · intro v rest hagenda hn
    exact step_regWrite_ignored hagenda (by omega) (State.regWrite_of_not_writable (by omega) (by omega) _ v)
  · intro rest hagenda hn
    have hzero : s.regValue n = 0#32 := by
      rcases hn with hn | rfl
      · exact s.regValue_absent hn
      · rfl
    rw [step_regRead hagenda, hzero]

/-- Settles O11: the value read is `State.regValue`, which is the register of that number. -/
theorem registerReadReturnsItsValue : Obligations.RegisterReadReturnsItsValue := by
  intro s n rest hagenda
  refine ⟨s.regValue n, step_regRead hagenda, ?ctrl, ?status, ?width, ?height, ?bitDepth, ?pattern, ?rawLen, ?pix,
    ?fpix, ?faddr⟩ <;> rintro rfl
  case ctrl => exact (toNat_setWidth_word (by decide) _).trans (BitVec.toNat_ofBool s.ie)
  case width | height | bitDepth | pattern => exact toNat_setWidth_word (by decide) _
  case status | rawLen | pix | fpix | faddr => rfl

/-- Settles O12: the fields of `State.statusWord`, and the accesses of register 2. -/
theorem statusWordLayout : Obligations.StatusWordLayout := by
  refine ⟨fun s => ?fields, ⟨rfl, rfl, rfl, rfl⟩, ⟨rfl, rfl, rfl, rfl, rfl, rfl⟩, by decide,
    fun s rest hagenda => step_regRead hagenda, fun s v rest hagenda => step_regWrite hagenda (by decide)⟩
  obtain ⟨hbusy, hdone, herr, hpatnop⟩ := s.statusWord_flags
  rw [hbusy, herr, s.busy_iff, s.err_iff]
  exact ⟨.rfl, hdone, .rfl, hpatnop, s.statusWord_fields⟩

/-- Settles O14. -/
theorem interruptLevel : Obligations.InterruptLevel := ⟨State.irq_iff, rfl⟩

/-- Settles O13: the flag relations of R37 leave no other combination of the fields. -/
theorem statusWordsThatCanBeRead : Obligations.StatusWordsThatCanBeRead := by
  rintro s ⟨-, hflags, -, -, -⟩
  refine ⟨fun hphase => ?idle, fun hphase => ?unpack, fun hphase => ?demosaic, fun hphase => ?halt⟩
  case idle =>
    have hecode := hflags.ecode_eq_none (by simp [hphase])
    cases hdone : s.done with
    | false => exact .inl (State.statusWord_eq hphase hecode (hflags.patnop_eq_false hdone) hdone)
    | true =>
      cases hpatnop : s.patnop with
      | false => exact .inr (.inl (State.statusWord_eq hphase hecode hpatnop hdone))
      | true => exact .inr (.inr (State.statusWord_eq hphase hecode hpatnop hdone))
  case unpack | demosaic =>
    have hecode := hflags.ecode_eq_none (by simp [hphase])
    have hdone := hflags.done_eq_false (by simp [hphase])
    exact State.statusWord_eq hphase hecode (hflags.patnop_eq_false hdone) hdone
  case halt =>
    have hdone := hflags.done_eq_false (by simp [hphase])
    obtain ⟨f, hecode⟩ := Option.ne_none_iff_exists'.1 (hflags.ecode_ne_none hphase)
    have hword := State.statusWord_eq hphase hecode (hflags.patnop_eq_false hdone) hdone
    cases f with
    | argCmd => exact .inl hword
    | argCfg => exact .inr (.inl hword)
    | alloc => exact .inr (.inr (.inl hword))
    | shortRead => exact .inr (.inr (.inr (.inl hword)))
    | bounds => exact .inr (.inr (.inr (.inr hword)))

end Sys2Proof.Machine
end

section
/-! What one step can do, said once (spec/00_scope.md R7, 40_commands.md R120, R127): the block processes a pixel, a
command word is presented, or the host makes another access. The frames of a step and the invariant follow from it. -/

namespace Sys2Proof.Machine

open Safe

/-! The step kinds. -/

/-- The rows of R94. -/
abbrev unpackKinds : List Instr := [.unpkCopy, .unpkOne, .unpkTwo]

/-- The rows of R95. -/
abbrev demosaicKinds : List Instr := [.dmOO, .dmOE, .dmEO, .dmEE]

/-- What an unpack step can answer: the byte of pixel `PIX` written and the step ended. -/
def UnpackNext (s t : State) : Prop :=
  s.p < s.caps.plane ∧ ∃ out, t = (s.setByte .plane s.p out).endUnpackStep

/-- Every selector but 11 names an unpack step kind (R94). -/
theorem decodeUstep_instr : ∀ es : BitVec 2, es ≠ 0b11#2 → ∃ i ∈ unpackKinds, decodeUstep es = .instr i := by
  decide

/-- Every selector names a demosaic step kind (R95). -/
theorem decodeDstep_instr : ∀ lr : BitVec 2, ∃ i ∈ demosaicKinds, decodeDstep lr = .instr i := by
  decide

/-- The selector 11 cannot occur: at depth 8 no sample crosses a byte boundary (R94). -/
theorem State.ustepSelector_ne (s : State) : s.ustepSelector ≠ 0b11#2 := by
  by_cases hd : s.d = 8
  · have hshift : shiftOf 8 s.p = 0 := Nat.mul_mod_right 8 s.p
    simp [State.ustepSelector, hd, hshift]
  · cases hcross : decide (8 < shiftOf s.d s.p + s.d) <;> simp [State.ustepSelector, hd, hcross]

/-- No command word names a step kind. -/
theorem decodeCommand_not_mem {v : Word} {i : Instr} (h : decodeCommand v = .instr i) :
    i ∉ unpackKinds ++ demosaicKinds := by
  unfold decodeCommand at h
  split_ifs at h <;> cases h <;> simp

/-! Presenting a command word. -/

/-- What the start of a command can do in the state `s`, its completion flags cleared: a start fault, after
`BITDEPTH` and `PATTERN` were fixed or not; the no-op of R123; or a phase whose checks hold. -/
inductive CommandStart (s : State) : State → Prop
  | fault (f : FaultCode) (v : Word) (hf : f ≠ .bounds) : CommandStart s (s.startFault f v)
  | conversionFault (f : FaultCode) (v : Word) (hf : f ≠ .bounds) : CommandStart s (s.fixConversion.startFault f v)
  | unpack (hw : s.w ≠ 0) (hh : s.h ≠ 0) (hdepth : s.d ∈ Config.legalDepths) (hraw : s.rawlen ≤ s.caps.raw)
      (hplane : s.npix ≤ s.caps.plane) (hlen : s.rawlen ≤ s.rawLen.toNat) :
      CommandStart s { s with chain := false, pix := 0#32, phase := .unpack }
  | noop (hpattern : s.pattern ≠ 0#2) : CommandStart s { s with pix := 0#32, patnop := true, done := true }
  | demosaic (hw : s.w ≠ 0) (hh : s.h ≠ 0) (hplane : s.npix ≤ s.caps.plane) (hrgb : s.rgblen ≤ s.caps.rgb)
      (hpattern : s.pattern = 0#2) : CommandStart s { s with pix := 0#32, phase := .demosaic }
  | conversion (hw : s.w ≠ 0) (hh : s.h ≠ 0) (hraw : s.fixConversion.rawlen ≤ s.caps.raw)
      (hplane : s.npix ≤ s.caps.plane) (hrgb : s.rgblen ≤ s.caps.rgb)
      (hlen : s.fixConversion.rawlen ≤ s.rawLen.toNat) :
      CommandStart s { s.fixConversion with chain := true, pix := 0#32, phase := .unpack }

theorem startUnpack_start (v : Word) (s : State) : CommandStart s (startUnpack v s) := by
  rcases startUnpack_cases v s with ⟨f, hf, h⟩ | ⟨hw, hh, hdepth, hraw, hplane, hlen, h⟩ <;> rw [h]
  · exact .fault f v hf
  · exact .unpack hw hh hdepth hraw hplane hlen

theorem startDemosaic_start (v : Word) (s : State) : CommandStart s (startDemosaic v s) := by
  rcases startDemosaic_cases v s with ⟨f, hf, h⟩ | ⟨hpattern, h⟩ | ⟨hw, hh, hplane, hrgb, hpattern, h⟩ <;> rw [h]
  · exact .fault f v hf
  · exact .noop hpattern
  · exact .demosaic hw hh hplane hrgb hpattern

theorem startConvert_start (c : Nat) (v : Word) (s : State) : CommandStart s (startConvert c v s) := by
  rcases startConvert_cases c v s with ⟨f, hf, h | h⟩ | ⟨-, hw, hh, hraw, hplane, hrgb, hlen, h⟩ <;> rw [h]
  · exact .fault f v hf
  · exact .conversionFault f v hf
  · exact .conversion hw hh hraw hplane hrgb hlen

/-- What a command word can do, a defined one or an illegal one (R120). -/
inductive CommandNext (s : State) : State → Prop
  | reset : CommandNext s s.softReset
  | dropped (hphase : s.phase ≠ .idle) : CommandNext s s
  | started {t : State} (hphase : s.phase = .idle) (h : CommandStart s.clearCompletion t) : CommandNext s t

theorem present_commandNext {start : State → State} (hstart : ∀ u, CommandStart u (start u)) (s : State) :
    CommandNext s (s.present start) := by
  rcases present_cases start s with ⟨hphase, h⟩ | ⟨hphase, h⟩ <;> rw [h]
  · exact .started hphase (hstart _)
  · exact .dropped hphase

theorem presentIllegal_next {v : Word} {s t : State} (h : presentIllegal v s = .next t) : CommandNext s t := by
  obtain rfl := Host.Outcome.next.inj h
  exact present_commandNext (fun _ => .fault .argCmd v (by decide)) s

/-! What an instruction that answers a next state did. -/

theorem exec_unpackKind {i : Instr} {s t : State} (hi : i ∈ unpackKinds) (h : exec i s = .next t) :
    UnpackNext s t := by
  cases i with
  | unpkCopy => exact execUnpkCopy_next h
  | unpkOne => exact execUnpkOne_next h
  | unpkTwo => exact execUnpkTwo_next h
  | _ => simp at hi

theorem exec_demosaicKind {i : Instr} {s t : State} (hi : i ∈ demosaicKinds) (h : exec i s = .next t) :
    DemosaicNext s t := by
  cases i with
  | dmOO => exact execDmOO_next h
  | dmOE => exact execDmOE_next h
  | dmEO => exact execDmEO_next h
  | dmEE => exact execDmEE_next h
  | _ => simp at hi

theorem exec_command {i : Instr} {s t : State} (hi : i ∉ unpackKinds ++ demosaicKinds) (h : exec i s = .next t) :
    CommandNext s t := by
  cases i with
  | unpack =>
    obtain rfl := Host.Outcome.next.inj h
    exact present_commandNext (startUnpack_start _) s
  | demosaic =>
    obtain rfl := Host.Outcome.next.inj h
    exact present_commandNext (startDemosaic_start _) s
  | convert c =>
    obtain rfl := Host.Outcome.next.inj h
    exact present_commandNext (startConvert_start c _) s
  | srst =>
    obtain rfl := Host.Outcome.next.inj h
    exact .reset
  | _ => simp at hi

/-! A step of any agent. -/

/-- What a step can do, once its turn is taken off the agenda. -/
inductive StepNext (s : State) : State → Prop
  | unpacked {t : State} (hphase : s.phase = .unpack) (h : UnpackNext s t) : StepNext s t
  | demosaiced {t : State} (hphase : s.phase = .demosaic) (h : DemosaicNext s t) : StepNext s t
  | command {t : State} (h : CommandNext s t) : StepNext s t
  | regWritten (n : Nat) (v : Word) : StepNext s (s.regWrite n v)
  | byteWritten (sp : Space) (k : Nat) (b : Byte) (hbusy : s.busy = false) (hk : k < s.cap sp) :
      StepNext s (s.setByte sp k b)
  | hardReset : StepNext s s.hardReset
  | observed (agenda : List Turn) (replies : List HostReply) :
      StepNext s { s with agenda := agenda, replies := replies }

theorem hostAccess_next {a : HostAccess} {s t : State} (h : hostAccess a s = .next t) : StepNext s t := by
  cases a with
  | regRead n =>
    obtain rfl := Host.Outcome.next.inj h
    exact .observed s.agenda _
  | regWrite n v =>
    obtain rfl := Host.Outcome.next.inj h
    exact .regWritten n v
  | bufRead sp k =>
    obtain ⟨-, -, rfl⟩ := hostBuffer_next h
    exact .observed s.agenda _
  | bufWrite sp k b =>
    obtain ⟨hbusy, hk, rfl⟩ := hostBuffer_next h
    exact .byteWritten sp k b hbusy hk
  | hardReset =>
    obtain rfl := Host.Outcome.next.inj h
    exact .hardReset
  | sampleIrq =>
    obtain rfl := Host.Outcome.next.inj h
    exact .observed s.agenda _

theorem pollStatus_next {s t : State} (h : pollStatus s = .next t) : StepNext s t := by
  unfold pollStatus at h
  dsimp only at h
  split at h <;> obtain rfl := Host.Outcome.next.inj h <;> exact .observed _ _

/-- In an unpack phase the block's work is an unpack step. -/
theorem blockWork_unpack {s : State} (hphase : s.phase = .unpack) : ∃ i ∈ unpackKinds, blockWork s = .run i := by
  obtain ⟨i, hi, hdecode⟩ := decodeUstep_instr s.ustepSelector s.ustepSelector_ne
  exact ⟨i, hi, by simp [blockWork, selectorWork, decode, hphase, hdecode]⟩

/-- In a demosaic phase the block's work is a demosaic step. -/
theorem blockWork_demosaic {s : State} (hphase : s.phase = .demosaic) :
    ∃ i ∈ demosaicKinds, blockWork s = .run i := by
  obtain ⟨i, hi, hdecode⟩ := decodeDstep_instr s.dstepSelector
  exact ⟨i, hi, by simp [blockWork, selectorWork, decode, hphase, hdecode]⟩

/-- A step kind runs only in its phase, and no other instruction runs on the block's turn. -/
theorem blockWork_run {s : State} {i : Instr} (h : blockWork s = .run i) :
    (s.phase = .unpack ∧ i ∈ unpackKinds) ∨ (s.phase = .demosaic ∧ i ∈ demosaicKinds) := by
  cases hphase : s.phase with
  | unpack =>
    obtain ⟨j, hj, hwork⟩ := blockWork_unpack hphase
    exact .inl ⟨rfl, Work.run.inj (hwork.symm.trans h) ▸ hj⟩
  | demosaic =>
    obtain ⟨j, hj, hwork⟩ := blockWork_demosaic hphase
    exact .inr ⟨rfl, Work.run.inj (hwork.symm.trans h) ▸ hj⟩
  | idle | halt => simp [blockWork, hphase] at h

/-- On the host's turn only a command word runs an instruction. -/
theorem hostWork_run {a : HostAccess} {i : Instr} (h : hostWork a = .run i) :
    i ∉ unpackKinds ++ demosaicKinds := by
  cases a with
  | regWrite n v =>
    simp only [hostWork, commandWork] at h
    split_ifs at h
    split at h <;> cases h
    exact decodeCommand_not_mem ‹_›
  | _ => cases h

/-- The block has the turn. -/
theorem nextWork_of_block {s : State} (h : s.agenda = [] ∨ ∃ rest, s.agenda = .block :: rest) :
    nextWork s = blockWork s := by
  rcases h with h | ⟨rest, h⟩ <;> simp [nextWork, h]

/-- Which instruction a step runs: a step kind in its phase, or the command word the host presents. -/
theorem nextWork_run {s : State} {i : Instr} (h : nextWork s = .run i) :
    (s.phase = .unpack ∧ i ∈ unpackKinds) ∨ (s.phase = .demosaic ∧ i ∈ demosaicKinds)
      ∨ i ∉ unpackKinds ++ demosaicKinds := by
  unfold nextWork at h
  split at h
  · exact (blockWork_run h).imp_right .inl
  · exact (blockWork_run h).imp_right .inl
  · cases h
  · exact .inr (.inr (hostWork_run h))

/-- Everything a step can do. -/
theorem step_next {s t : State} (h : step s = .next t) : StepNext s.popTurn t := by
  rcases step_cases s with
    ⟨i, hwork, hrun⟩ | ⟨v, -, hillegal⟩ | ⟨a, -, haccess⟩ | ⟨-, hpoll⟩ | ⟨-, hrest⟩ | ⟨-, hnoKind⟩
  · have hexec := hrun.symm.trans h
    rcases nextWork_run hwork with ⟨hphase, hi⟩ | ⟨hphase, hi⟩ | hi
    · exact .unpacked hphase (exec_unpackKind hi hexec)
    · exact .demosaiced hphase (exec_demosaicKind hi hexec)
    · exact .command (exec_command hi hexec)
  · exact .command (presentIllegal_next (hillegal.symm.trans h))
  · exact hostAccess_next (haccess.symm.trans h)
  · exact pollStatus_next (hpoll.symm.trans h)
  · obtain rfl := Host.Outcome.next.inj (hrest.symm.trans h)
    exact .observed _ _
  · cases hnoKind.symm.trans h

/-- The step runs the instruction that is its work. -/
theorem step_of_run {s : State} {i : Instr} (h : nextWork s = .run i) : step s = exec i s.popTurn := by
  simp [step, h]

/-- Everything a step of the block can do while it is busy. -/
theorem block_step_next {s t : State} (hturn : s.agenda = [] ∨ ∃ rest, s.agenda = .block :: rest)
    (hbusy : s.phase = .unpack ∨ s.phase = .demosaic) (h : step s = .next t) :
    UnpackNext s.popTurn t ∨ DemosaicNext s.popTurn t := by
  rcases hbusy with hphase | hphase
  · obtain ⟨i, hi, hwork⟩ := blockWork_unpack hphase
    exact .inl (exec_unpackKind hi ((step_of_run ((nextWork_of_block hturn).trans hwork)).symm.trans h))
  · obtain ⟨i, hi, hwork⟩ := blockWork_demosaic hphase
    exact .inr (exec_demosaicKind hi ((step_of_run ((nextWork_of_block hturn).trans hwork)).symm.trans h))

/-! What each kind of step leaves alone. -/

theorem State.setTriple_byteAt_other {s : State} {sp : Space} (hsp : sp ≠ .rgb) (b g r : Byte) (k : Nat) :
    (s.setTriple b g r).byteAt sp k = s.byteAt sp k := by
  simp only [State.setTriple, State.setByte_byteAt_other _ _ _ _ _ _ (.inl hsp)]

/-- An unpack step writes no space but `PLANE` (R156). -/
theorem UnpackNext.byteAt {s t : State} (h : UnpackNext s t) {sp : Space} (hsp : sp ≠ .plane) (k : Nat) :
    t.byteAt sp k = s.byteAt sp k := by
  obtain ⟨-, out, rfl⟩ := h
  rw [State.endUnpackStep_byteAt, State.setByte_byteAt_other _ _ _ _ _ _ (.inl hsp)]

/-- A demosaic step writes no space but `RGB` (R177). -/
theorem DemosaicNext.byteAt {s t : State} (h : DemosaicNext s t) {sp : Space} (hsp : sp ≠ .rgb) (k : Nat) :
    t.byteAt sp k = s.byteAt sp k := by
  rcases h with ⟨-, b, g, r, rfl⟩ | ⟨j, -, rfl⟩
  · rw [State.endDemosaicStep_byteAt, State.setTriple_byteAt_other hsp]
  · rw [State.raise_byteAt]

/-- The start of a command writes no memory (R123, R126). -/
theorem CommandStart.keepsMemory {s t : State} (h : CommandStart s t) : KeepsMemory s t := by
  intro sp k
  cases h <;> cases sp <;> rfl

/-- No command writes a memory at the moment it is presented. -/
theorem CommandNext.keepsMemory {s t : State} (h : CommandNext s t) : KeepsMemory s t := by
  intro sp k
  cases h with
  | reset => exact s.softReset_byteAt sp k
  | dropped => rfl
  | started _ hstart => exact (hstart.keepsMemory sp k).trans (s.clearCompletion_byteAt sp k)

theorem UnpackNext.keepsConfig {s t : State} (h : UnpackNext s t) : KeepsConfig s t := by
  obtain ⟨-, out, rfl⟩ := h
  simp [KeepsConfig]

theorem DemosaicNext.keepsConfig {s t : State} (h : DemosaicNext s t) : KeepsConfig s t := by
  rcases h with ⟨-, b, g, r, rfl⟩ | ⟨k, -, rfl⟩ <;> simp [KeepsConfig, State.setTriple]

/-! The obligations about what a step or an instruction leaves alone. -/

/-- Settles O9: a write but of `CTRL` is ignored, and the block's own step writes a byte or a triple, or faults. -/
theorem configurationFrozenWhileBusy : Obligations.ConfigurationFrozenWhileBusy := by
  intro s hphase
  have hbusy (rest : List Turn) : State.busy { s with agenda := rest } = true := s.busy_iff.2 hphase
  refine ⟨fun n v rest hagenda => ⟨fun hn => ?config, ?ctrl⟩, fun n rest hagenda => step_regRead hagenda,
    fun t hturn hstep => ?block⟩
  case config => exact step_regWrite_ignored hagenda (by omega) (State.regWrite_of_busy (hbusy rest) (by omega) v)
  case ctrl =>
    rintro rfl
    exact step_regWrite hagenda (by decide)
  case block =>
    rcases block_step_next hturn hphase hstep with hnext | hnext
    · exact hnext.keepsConfig
    · exact hnext.keepsConfig

/-- Settles O16: both resets put the values of `State.resetRegisters` and keep the memories. -/
theorem resetValuesOfEveryRegister : Obligations.ResetValuesOfEveryRegister := by
  have hreset : ∀ s : State, AtReset s.resetRegisters := fun s => by
    refine ⟨rfl, rfl, rfl, rfl, rfl, rfl, rfl, rfl, rfl, rfl, rfl, rfl, rfl, rfl, ?_, rfl⟩
    exact State.statusWord_eq (phase := .idle) (ecode := none) (patnop := false) (done := false) rfl rfl rfl rfl
  refine ⟨fun s => ⟨s.softReset, rfl, hreset s, s.softReset_byteAt, rfl, rfl, rfl⟩, fun s rest hagenda => ?_,
    hreset State.reset, State.reset_byteAt⟩
  exact ⟨_, step_of_access hagenda rfl, hreset _, State.hardReset_byteAt _, rfl, rfl, rfl⟩

/-- Settles O45, by what each of the three classes of instructions can write. -/
theorem instructionsKeepTheirSpaces : Obligations.InstructionsKeepTheirSpaces := by
  intro i s t h
  refine ⟨fun k => ?raw, fun hi k => (exec_unpackKind hi h).byteAt (by decide) k,
    fun hi k => (exec_demosaicKind hi h).byteAt (by decide) k⟩
  by_cases hunpack : i ∈ unpackKinds
  · exact (exec_unpackKind hunpack h).byteAt (by decide) k
  by_cases hdemosaic : i ∈ demosaicKinds
  · exact (exec_demosaicKind hdemosaic h).byteAt (by decide) k
  have hcommand : i ∉ unpackKinds ++ demosaicKinds := fun hi => (List.mem_append.1 hi).elim hunpack hdemosaic
  exact (exec_command hcommand h).keepsMemory .raw k

end Sys2Proof.Machine
end

section
/-! The invariant of reachable states (spec/10_state.md R37, 40_commands.md R127 to R129, 60_exceptions.md R239): it
holds after reset and every operation a step can do keeps it. -/

namespace Sys2Proof.Machine

open Safe

/-! The pixel counter and the end of a step. -/

/-- A frame has fewer than 2^32 pixels, so `PIX` never wraps (R30). -/
theorem State.npix_lt (s : State) : s.npix < 2 ^ 32 :=
  calc s.npix < 2 ^ 16 * 2 ^ 16 := Nat.mul_lt_mul'' s.width.isLt s.height.isLt
    _ = 2 ^ 32 := by norm_num

theorem State.npix_pos {s : State} (hw : s.w ≠ 0) (hh : s.h ≠ 0) : 0 < s.npix :=
  Nat.mul_pos (Nat.pos_of_ne_zero hw) (Nat.pos_of_ne_zero hh)

theorem State.toNat_pix_succ {s : State} (hp : s.p < s.npix) : (s.pix + 1#32).toNat = s.p + 1 := by
  have hlt := s.npix_lt
  rw [BitVec.toNat_add]
  exact Nat.mod_eq_of_lt (by show s.p + 1 < 2 ^ 32; omega)

theorem State.endUnpackStep_eq (s : State) :
    s.endUnpackStep =
      if (s.pix + 1#32).toNat = s.npix then
        if s.chain then { s with chain := false, pix := 0#32, phase := .demosaic }
        else { s with pix := s.pix + 1#32, phase := .idle, done := true }
      else { s with pix := s.pix + 1#32 } := rfl

theorem State.endDemosaicStep_eq (s : State) :
    s.endDemosaicStep =
      if (s.pix + 1#32).toNat = s.npix then { s with pix := s.pix + 1#32, phase := .idle, done := true }
      else { s with pix := s.pix + 1#32 } := rfl

/-- The three ways an unpack step ends (R128). -/
theorem State.endUnpackStep_cases {s : State} (hp : s.p < s.npix) :
    (s.p + 1 < s.npix ∧ s.endUnpackStep = { s with pix := s.pix + 1#32 })
      ∨ (s.chain = true ∧ s.endUnpackStep = { s with chain := false, pix := 0#32, phase := .demosaic })
      ∨ (s.chain = false ∧ s.endUnpackStep = { s with pix := s.pix + 1#32, phase := .idle, done := true }) := by
  rw [State.endUnpackStep_eq, State.toNat_pix_succ hp]
  split_ifs with hlast hchain
  · exact .inr (.inl ⟨hchain, rfl⟩)
  · exact .inr (.inr ⟨Bool.eq_false_iff.2 hchain, rfl⟩)
  · exact .inl ⟨by omega, rfl⟩

/-- The two ways a demosaic step ends (R129). -/
theorem State.endDemosaicStep_cases {s : State} (hp : s.p < s.npix) :
    (s.p + 1 < s.npix ∧ s.endDemosaicStep = { s with pix := s.pix + 1#32 })
      ∨ s.endDemosaicStep = { s with pix := s.pix + 1#32, phase := .idle, done := true } := by
  rw [State.endDemosaicStep_eq, State.toNat_pix_succ hp]
  split_ifs with hlast
  · exact .inr rfl
  · exact .inl ⟨by omega, rfl⟩

/-! A phase that does not run has nothing to keep of its start checks. -/

theorem Safe.UnpackOk.of_phase_ne {s : State} (h : s.phase ≠ .unpack) : UnpackOk s := fun hphase => absurd hphase h

theorem Safe.DemosaicOk.of_phase_ne {s : State} (h : s.phase ≠ .demosaic) : DemosaicOk s :=
  fun hphase => absurd hphase h

/-! Storing a byte, a write of a register, and what the model keeps for itself. -/

theorem Safe.MemoryOk.setByte {s : State} (h : MemoryOk s) {sp : Space} {k : Nat} (hk : k < s.cap sp) (b : Byte) :
    MemoryOk (s.setByte sp k b) := by
  obtain ⟨hcaps, hraw, hplane, hrgb, hrawBelow, hplaneBelow, hrgbBelow⟩ := h
  have hwf := s.setByte_wf sp k b fun x => by cases x <;> assumption
  have hbelow := s.setByte_below sp k b hk fun x => by cases x <;> assumption
  exact ⟨by rwa [State.setByte_caps], hwf .raw, hwf .plane, hwf .rgb, hbelow .raw, hbelow .plane, hbelow .rgb⟩

/-- A byte stored below the capacity keeps the invariant: no register changes. -/
theorem Safe.Invariant.setByte {s : State} (h : Invariant s) {sp : Space} {k : Nat} (hk : k < s.cap sp) (b : Byte) :
    Invariant (s.setByte sp k b) := by
  obtain ⟨hmem, hregs⟩ := h
  exact ⟨hmem.setByte hk b, by cases sp <;> exact hregs⟩

theorem Safe.Invariant.setTriple {s : State} (h : Invariant s) (hk : 3 * s.p + 2 < s.caps.rgb) (b g r : Byte) :
    Invariant (s.setTriple b g r) :=
  ((h.setByte (sp := .rgb) (by show 3 * s.p < s.caps.rgb; omega) b).setByte (sp := .rgb)
    (by show 3 * s.p + 1 < s.caps.rgb; omega) g).setByte (sp := .rgb) hk r

/-- A register write keeps the invariant: while the block runs, the configuration its checks were made of is
frozen (R34). -/
theorem Safe.Invariant.regWrite {s : State} (h : Invariant s) (n : Nat) (v : Word) : Invariant (s.regWrite n v) := by
  rcases regWrite_cases s n v with hsame | ⟨-, hctrl⟩ | ⟨hfree, hconfig⟩
  · rwa [hsame]
  · rw [hctrl]
    exact h
  · have hphase := s.busy_eq_false_iff.1 hfree
    have hunpack : s.phase ≠ .unpack := by rcases hphase with hp | hp <;> simp [hp]
    have hdemosaic : s.phase ≠ .demosaic := by rcases hphase with hp | hp <;> simp [hp]
    obtain ⟨hmem, hflags, hrecord, -, -⟩ := h
    rcases hconfig with ⟨-, hw⟩ | ⟨-, hw⟩ | ⟨-, hw⟩ | ⟨-, hw⟩ | ⟨-, hw⟩ <;> rw [hw] <;>
      exact ⟨hmem, hflags, hrecord, .of_phase_ne hunpack, .of_phase_ne hdemosaic⟩

/-! Reset and faults. -/

/-- The registers of the reset state meet the invariant whatever the memories hold. -/
theorem Safe.MemoryOk.softReset {s : State} (h : MemoryOk s) : Invariant s.softReset :=
  ⟨h, by simp [FlagsOk], by simp [RecordOk], .of_phase_ne (by simp), .of_phase_ne (by simp)⟩

/-- A fault keeps the invariant when it is recorded as R231 says: `FPIX = PIX` for `BOUNDS`, 0 for a start fault. -/
theorem Safe.MemoryOk.raise {s : State} (h : MemoryOk s) (hdone : s.done = false) (hpatnop : s.patnop = false)
    {f : FaultCode} {x : Word} (hbounds : f = .bounds → x = s.pix) (hstart : f ≠ .bounds → x = 0#32) (k : Nat) :
    Invariant (s.raise f x k) := by
  refine ⟨h, ?flags, ?record, .of_phase_ne (by simp), .of_phase_ne (by simp)⟩
  case flags => simp [FlagsOk, hdone, hpatnop]
  case record => simpa [RecordOk] using ⟨hbounds, hstart⟩

/-! The end of a step of the block. -/

/-- The start checks of a phase speak of no pixel but the next one, so the next pixel of the frame meets them. -/
theorem Safe.Invariant.nextPixel {s : State} (h : Invariant s) (hbusy : s.phase = .unpack ∨ s.phase = .demosaic)
    (hp : s.p + 1 < s.npix) : Invariant { s with pix := s.pix + 1#32 } := by
  obtain ⟨hmem, hflags, ⟨hclear, hbounds, hstart⟩, hunpack, hdemosaic⟩ := h
  have hecode := hflags.ecode_eq_none (by rcases hbusy with hphase | hphase <;> simp [hphase])
  have hpix : (s.pix + 1#32).toNat < s.npix := by rwa [State.toNat_pix_succ (by omega)]
  refine ⟨hmem, hflags, ⟨hclear, ?_, hstart⟩, fun hphase => ⟨hpix, (hunpack hphase).2⟩,
    fun hphase => ⟨hpix, (hdemosaic hphase).2⟩⟩
  simp [hecode]

/-- The end of a run leaves `IDLE` with `DONE` set. -/
theorem Safe.Invariant.finished {s : State} (h : Invariant s) (hbusy : s.phase = .unpack ∨ s.phase = .demosaic)
    (hchain : s.chain = false) (x : Word) : Invariant { s with pix := x, phase := .idle, done := true } := by
  obtain ⟨hmem, hflags, ⟨hclear, -, hstart⟩, -, -⟩ := h
  have hecode := hflags.ecode_eq_none (by rcases hbusy with hphase | hphase <;> simp [hphase])
  refine ⟨hmem, ?flags, ⟨hclear, ?bounds, hstart⟩, .of_phase_ne (by simp), .of_phase_ne (by simp)⟩
  case flags => simp [FlagsOk, hecode, hchain]
  case bounds => simp [hecode]

/-- The end of the unpack phase of a conversion starts its demosaic phase, whose checks were made at the start of the
command (R124). -/
theorem Safe.Invariant.chained {s : State} (h : Invariant s) (hphase : s.phase = .unpack) (hchain : s.chain = true) :
    Invariant { s with chain := false, pix := 0#32, phase := .demosaic } := by
  obtain ⟨hmem, hflags, ⟨hclear, -, hstart⟩, hunpack, -⟩ := h
  obtain ⟨hp, -, -, hplane, -, hconversion⟩ := hunpack hphase
  obtain ⟨-, hpattern, hrgb⟩ := hconversion hchain
  have hecode := hflags.ecode_eq_none (by simp [hphase])
  have hdone := hflags.done_eq_false (by simp [hphase])
  refine ⟨hmem, ?flags, ⟨hclear, ?bounds, hstart⟩, .of_phase_ne (by simp), fun _ =>
    ⟨Nat.zero_lt_of_lt hp, hplane, hrgb, hpattern⟩⟩
  case flags => simp [FlagsOk, hecode, hdone, hflags.patnop_eq_false hdone]
  case bounds => simp [hecode]

theorem Safe.Invariant.endUnpackStep {s : State} (h : Invariant s) (hphase : s.phase = .unpack) :
    Invariant s.endUnpackStep := by
  obtain ⟨-, -, -, hunpack, -⟩ := id h
  rcases State.endUnpackStep_cases (hunpack hphase).1 with ⟨hnext, hend⟩ | ⟨hchain, hend⟩ | ⟨hchain, hend⟩ <;> rw [hend]
  · exact h.nextPixel (.inl hphase) hnext
  · exact h.chained hphase hchain
  · exact h.finished (.inl hphase) hchain _

theorem Safe.Invariant.endDemosaicStep {s : State} (h : Invariant s) (hphase : s.phase = .demosaic) :
    Invariant s.endDemosaicStep := by
  obtain ⟨-, hflags, -, -, hdemosaic⟩ := id h
  rcases State.endDemosaicStep_cases (hdemosaic hphase).1 with ⟨hnext, hend⟩ | hend <;> rw [hend]
  · exact h.nextPixel (.inr hphase) hnext
  · exact h.finished (.inr hphase) (hflags.chain_eq_false (by simp [hphase])) _

theorem UnpackNext.invariant {s t : State} (h : UnpackNext s t) (hs : Invariant s) (hphase : s.phase = .unpack) :
    Invariant t := by
  obtain ⟨hcap, out, rfl⟩ := h
  exact (hs.setByte hcap out).endUnpackStep hphase

theorem DemosaicNext.invariant {s t : State} (h : DemosaicNext s t) (hs : Invariant s)
    (hphase : s.phase = .demosaic) : Invariant t := by
  rcases h with ⟨hcap, b, g, r, rfl⟩ | ⟨k, -, rfl⟩
  · exact (hs.setTriple hcap b g r).endDemosaicStep hphase
  · obtain ⟨hmem, hflags, -⟩ := hs
    have hdone := hflags.done_eq_false (by simp [hphase])
    exact hmem.raise hdone (hflags.patnop_eq_false hdone) (fun _ => rfl) (fun hne => absurd rfl hne) k

/-! Commands. -/

/-- The completion flags may be cleared in any phase (R121). -/
theorem Safe.Invariant.clearCompletion {s : State} (h : Invariant s) : Invariant s.clearCompletion := by
  obtain ⟨hmem, ⟨hhalt, -, -, hchain⟩, hrest⟩ := h
  exact ⟨hmem, ⟨hhalt, by simp, by simp, hchain⟩, hrest⟩

/-- In `IDLE` no fault is recorded and no conversion is under way. -/
theorem Safe.Invariant.idle {s : State} (h : Invariant s) (hphase : s.phase = .idle) :
    s.ecode = none ∧ s.chain = false ∧ s.fpix = 0#32 ∧ s.faddr = 0#32 := by
  obtain ⟨-, hflags, ⟨hclear, -⟩, -⟩ := h
  have hecode := hflags.ecode_eq_none (by simp [hphase])
  exact ⟨hecode, hflags.chain_eq_false (by simp [hphase]), hclear hecode⟩

/-- The start of a command in `IDLE`, its completion flags cleared, keeps the invariant: a phase starts only where its
checks hold. -/
theorem CommandStart.invariant {s t : State} (h : CommandStart s t) (hs : Invariant s) (hphase : s.phase = .idle)
    (hdone : s.done = false) (hpatnop : s.patnop = false) : Invariant t := by
  obtain ⟨hecode, hchain, hfpix, hfaddr⟩ := hs.idle hphase
  obtain ⟨hmem, -⟩ := hs
  cases h with
  | fault f v hf => exact hmem.raise hdone hpatnop (fun hb => absurd hb hf) (fun _ => rfl) v.toNat
  | conversionFault f v hf =>
    exact MemoryOk.raise (s := s.fixConversion) hmem hdone hpatnop (fun hb => absurd hb hf) (fun _ => rfl) v.toNat
  | unpack hw hh hdepth hraw hplane hlen =>
    refine ⟨hmem, ?_, ?_, fun _ => ⟨State.npix_pos hw hh, hdepth, hraw, hplane, hlen, by simp⟩, .of_phase_ne (by simp)⟩
    · simp [FlagsOk, hecode, hdone, hpatnop]
    · simp [RecordOk, hecode, hfpix, hfaddr]
  | noop hpattern =>
    refine ⟨hmem, ?_, ?_, .of_phase_ne (by simp [hphase]), .of_phase_ne (by simp [hphase])⟩
    · simp [FlagsOk, hecode, hphase, hchain]
    · simp [RecordOk, hecode, hfpix, hfaddr]
  | demosaic hw hh hplane hrgb hpattern =>
    refine ⟨hmem, ?_, ?_, .of_phase_ne (by simp), fun _ => ⟨State.npix_pos hw hh, hplane, hrgb, hpattern⟩⟩
    · simp [FlagsOk, hecode, hdone, hpatnop, hchain]
    · simp [RecordOk, hecode, hfpix, hfaddr]
  | conversion hw hh hraw hplane hrgb hlen =>
    have hdepth : 10 ∈ Config.legalDepths := by decide
    refine ⟨hmem, ?_, ?_, fun _ => ⟨State.npix_pos hw hh, hdepth, hraw, hplane, hlen, fun _ => ⟨rfl, rfl, hrgb⟩⟩,
      .of_phase_ne (by simp)⟩
    · simp [FlagsOk, State.fixConversion, hecode, hdone, hpatnop]
    · simp [RecordOk, State.fixConversion, hecode, hfpix, hfaddr]

theorem CommandNext.invariant {s t : State} (h : CommandNext s t) (hs : Invariant s) : Invariant t := by
  cases h with
  | reset => exact hs.1.softReset
  | dropped => exact hs
  | started hphase hstart => exact hstart.invariant hs.clearCompletion hphase rfl rfl

/-! Every step. -/

theorem StepNext.invariant {s t : State} (h : StepNext s t) (hs : Invariant s) : Invariant t := by
  cases h with
  | unpacked hphase hnext => exact hnext.invariant hs hphase
  | demosaiced hphase hnext => exact hnext.invariant hs hphase
  | command hnext => exact hnext.invariant hs
  | regWritten n v => exact hs.regWrite n v
  | byteWritten sp k b hbusy hk => exact hs.setByte hk b
  | hardReset => exact hs.1.softReset
  | observed agenda replies => exact hs

/-- Settles O38: whatever the step was, it is one of the operations that keep the invariant. -/
theorem stepKeepsTheInvariant : Obligations.StepKeepsTheInvariant :=
  fun s _ hs hstep => (step_next hstep).invariant (s := s.popTurn) hs

/-- Settles O39: nothing is listed in the memories, and the registers are those of reset. -/
theorem resetMeetsTheInvariant : Obligations.ResetMeetsTheInvariant :=
  MemoryOk.softReset (s := State.reset) (by decide)

/-! `PIX` within a phase. -/

theorem State.setTriple_p (s : State) (b g r : Byte) : (s.setTriple b g r).p = s.p := by
  simp [State.setTriple]

theorem State.setTriple_npix (s : State) (b g r : Byte) : (s.setTriple b g r).npix = s.npix := by
  simp [State.setTriple]

theorem State.regWrite_pix (s : State) (n : Nat) (v : Word) : (s.regWrite n v).pix = s.pix := by
  rcases regWrite_cases s n v with h | ⟨-, h⟩ | ⟨-, ⟨-, h⟩ | ⟨-, h⟩ | ⟨-, h⟩ | ⟨-, h⟩ | ⟨-, h⟩⟩ <;> rw [h]

/-- The end of an unpack step lowers `PIX` only when it starts the demosaic phase of a conversion. -/
theorem State.endUnpackStep_p_le {s : State} (hp : s.p < s.npix) (hphase : s.endUnpackStep.phase ≠ .demosaic) :
    s.p ≤ s.endUnpackStep.p := by
  have hsucc : s.p ≤ (s.pix + 1#32).toNat := by rw [State.toNat_pix_succ hp]; omega
  rcases State.endUnpackStep_cases hp with ⟨-, hend⟩ | ⟨-, hend⟩ | ⟨-, hend⟩
  · rw [hend]; exact hsucc
  · exact absurd (by rw [hend]) hphase
  · rw [hend]; exact hsucc

theorem State.endDemosaicStep_p_le {s : State} (hp : s.p < s.npix) : s.p ≤ s.endDemosaicStep.p := by
  have hsucc : s.p ≤ (s.pix + 1#32).toNat := by rw [State.toNat_pix_succ hp]; omega
  rcases State.endDemosaicStep_cases hp with ⟨-, hend⟩ | hend <;> rw [hend] <;> exact hsucc

theorem UnpackNext.p_le {s t : State} (h : UnpackNext s t) (hp : s.p < s.npix) (hphase : t.phase ≠ .demosaic) :
    s.p ≤ t.p := by
  obtain ⟨-, out, rfl⟩ := h
  rw [← s.setByte_p .plane s.p out]
  exact State.endUnpackStep_p_le (by rwa [State.setByte_p, State.setByte_npix]) hphase

theorem DemosaicNext.p_le {s t : State} (h : DemosaicNext s t) (hp : s.p < s.npix) : s.p ≤ t.p := by
  rcases h with ⟨-, b, g, r, rfl⟩ | ⟨k, -, rfl⟩
  · rw [← s.setTriple_p b g r]
    exact State.endDemosaicStep_p_le (by rwa [State.setTriple_p, State.setTriple_npix])
  · exact le_rfl

/-- A busy block drops every command but `SRST`, which ends the phase. -/
theorem CommandNext.eq_of_busy {s t : State} (h : CommandNext s t) (hbusy : s.busy = true)
    (hsame : t.phase = s.phase) : t = s := by
  have hphase := s.busy_iff.1 hbusy
  cases h with
  | dropped => rfl
  | reset => simp [← hsame] at hphase
  | started hidle => simp [hidle] at hphase

theorem StepNext.p_le {s t : State} (h : StepNext s t) (hs : Invariant s) (hbusy : s.busy = true)
    (hsame : t.phase = s.phase) : s.p ≤ t.p := by
  obtain ⟨-, -, -, hunpack, hdemosaic⟩ := hs
  cases h with
  | unpacked hphase hnext => exact hnext.p_le (hunpack hphase).1 (by simp [hsame, hphase])
  | demosaiced hphase hnext => exact hnext.p_le (hdemosaic hphase).1
  | command hnext => rw [hnext.eq_of_busy hbusy hsame]
  | regWritten n v => simp [State.p, State.regWrite_pix]
  | byteWritten sp k b => simp
  | hardReset => exact absurd (s.busy_iff.1 hbusy) (by simp [← hsame])
  | observed agenda replies => exact le_rfl

/-- Settles O43: only the start of the second phase of a conversion and a reset lower `PIX`, and both change the
phase. -/
theorem pixNeverDecreasesWithinAPhase : Obligations.PixNeverDecreasesWithinAPhase :=
  fun s _ hs hbusy hstep hsame => (step_next hstep).p_le (s := s.popTurn) hs hbusy hsame

end Sys2Proof.Machine
end

section
/-! The host's buffer accesses (spec/20_memory.md R68 to R70): served while the host owns the buffers and the index names
a byte, refused otherwise. -/

namespace Sys2Proof.Machine

/-! The three outcomes of a buffer access, by ownership and index. -/

theorem hostBuffer_ok {sp : Space} {k : Nat} {s cont : State} (hfree : s.busy = false) (hk : k < s.cap sp) :
    hostBuffer sp k s cont = .next cont := by
  simp [hostBuffer, hfree, hk]

theorem hostBuffer_busy {sp : Space} {k : Nat} {s cont : State} (hbusy : s.busy = true) :
    hostBuffer sp k s cont = .refused (.hostBufferWhileBusy sp k) := by
  simp [hostBuffer, hbusy]

theorem hostBuffer_past {sp : Space} {k : Nat} {s cont : State} (hfree : s.busy = false) (hk : s.cap sp ≤ k) :
    hostBuffer sp k s cont = .refused (.hostBufferPastCapacity sp k) := by
  simp [hostBuffer, hfree, hk]

theorem hostBuffer_answers (sp : Space) (k : Nat) (s cont : State) :
    hostBuffer sp k s cont = .next cont ∨ ∃ r, hostBuffer sp k s cont = .refused r := by
  cases howner : s.busy with
  | true => exact .inr ⟨_, hostBuffer_busy howner⟩
  | false =>
    rcases Nat.lt_or_ge k (s.cap sp) with hk | hk
    · exact .inl (hostBuffer_ok howner hk)
    · exact .inr ⟨_, hostBuffer_past howner hk⟩

/-! A step that is such an access. Neither the ownership nor the capacity depends on the agenda. -/

theorem step_bufRead {s : State} {sp : Space} {k : Nat} {rest : List Turn}
    (hagenda : s.agenda = .host (.bufRead sp k) :: rest) :
    step s = hostBuffer sp k { s with agenda := rest }
      { s with agenda := rest, replies := .buf sp k (s.byteAt sp k) :: s.replies } := by
  rw [step_of_access hagenda rfl]
  cases sp <;> rfl

theorem step_bufWrite {s : State} {sp : Space} {k : Nat} {b : Byte} {rest : List Turn}
    (hagenda : s.agenda = .host (.bufWrite sp k b) :: rest) :
    step s = hostBuffer sp k { s with agenda := rest } (State.setByte { s with agenda := rest } sp k b) :=
  step_of_access hagenda rfl

/-- A store changes no field but the memories. -/
theorem State.setByte_eq (s : State) (sp : Space) (k : Nat) (b : Byte) :
    s.setByte sp k b = { s with
      raw := (s.setByte sp k b).raw, plane := (s.setByte sp k b).plane, rgb := (s.setByte sp k b).rgb } := by
  cases sp <;> rfl

/-- A store changes the addressed byte alone (R68). -/
theorem State.setByte_keepsMemoryBut (s : State) (sp : Space) (k : Nat) (b : Byte) :
    KeepsMemoryBut sp k 1 s (s.setByte sp k b) := fun sp' j hother =>
  State.setByte_byteAt_other s sp sp' k j b (hother.imp_right (by omega))

/-- Settles O17: a step with such an access on the agenda is `hostBuffer`, whose outcome the ownership and the index
decide. -/
theorem hostBufferAccessesFollowOwnership : Obligations.HostBufferAccessesFollowOwnership := by
  intro s sp k b rest
  let u : State := { s with agenda := rest }
  have hcap : u.cap sp = s.cap sp := by cases sp <;> rfl
  refine ⟨fun hagenda => ?read, fun hagenda => ?write⟩
  case read =>
    rw [step_bufRead hagenda]
    exact ⟨fun hfree hk => hostBuffer_ok (s := u) hfree (hcap ▸ hk), hostBuffer_busy (s := u),
      fun hfree hk => hostBuffer_past (s := u) hfree (hcap ▸ hk)⟩
  case write =>
    rw [step_bufWrite hagenda]
    refine ⟨fun hfree hk => ⟨u.setByte sp k b, hostBuffer_ok (s := u) hfree (hcap ▸ hk), u.setByte_byteAt_same sp k b,
      fun sp' j hother => ?other, u.setByte_eq sp k b⟩, hostBuffer_busy (s := u),
      fun hfree hk => hostBuffer_past (s := u) hfree (hcap ▸ hk)⟩
    case other =>
      have hagendaFree : u.byteAt sp' j = s.byteAt sp' j := by cases sp' <;> rfl
      exact (u.setByte_keepsMemoryBut sp k b sp' j hother).trans hagendaFree

end Sys2Proof.Machine
end

section
/-! What a command leaves alone (spec/40_commands.md R122 to R125): presenting one writes no buffer and no register but
those its rule names, and the fault record changes only with a fault. -/

namespace Sys2Proof.Machine

/-- What every command but `SRST` leaves alone: the memories, the model's own fields, the registers that `CONVERT` does
not fix either, and the fault record unless the command ends in `HALT`. -/
def CommandKeeps (s t : State) : Prop :=
  KeepsMemory s t ∧ KeepsModel s t ∧ t.ie = s.ie ∧ t.width = s.width ∧ t.height = s.height ∧ t.rawLen = s.rawLen
    ∧ (t.phase ≠ .halt → t.ecode = s.ecode ∧ t.fpix = s.fpix ∧ t.faddr = s.faddr)

/-- Of the six ways a command can start, the two faults halt the block and the others keep the record. -/
theorem CommandStart.keeps {s t : State} (h : CommandStart s t) : CommandKeeps s t := by
  refine ⟨h.keepsMemory, ?_⟩
  cases h with
  | fault | conversionFault =>
    exact ⟨⟨rfl, rfl, rfl⟩, rfl, rfl, rfl, rfl, fun hrunning => absurd rfl hrunning⟩
  | unpack | noop | demosaic | conversion =>
    exact ⟨⟨rfl, rfl, rfl⟩, rfl, rfl, rfl, rfl, fun _ => ⟨rfl, rfl, rfl⟩⟩

/-- The frame of a command's start is that of the command: a dropped one changes nothing, and the completion flags that
an accepted one clears are none of these fields (R120, R121). -/
theorem present_keeps {start : State → State} (hstart : ∀ u, CommandStart u (start u)) (s : State) :
    CommandKeeps s (s.present start) := by
  rcases present_cases start s with ⟨-, h⟩ | ⟨-, h⟩ <;> rw [h]
  · obtain ⟨hmem, hrest⟩ := (hstart s.clearCompletion).keeps
    exact ⟨fun sp k => (hmem sp k).trans (s.clearCompletion_byteAt sp k), hrest⟩
  · exact ⟨fun _ _ => rfl, ⟨rfl, rfl, rfl⟩, rfl, rfl, rfl, rfl, fun _ => ⟨rfl, rfl, rfl⟩⟩

/-! Only `CONVERT` fixes the depth and the pattern (R124). -/

/-- A command keeps the depth and the pattern when its start does. -/
theorem present_depth_pattern {start : State → State}
    (hstart : ∀ u, (start u).bitDepth = u.bitDepth ∧ (start u).pattern = u.pattern) (s : State) :
    (s.present start).bitDepth = s.bitDepth ∧ (s.present start).pattern = s.pattern := by
  rcases present_cases start s with ⟨-, h⟩ | ⟨-, h⟩ <;> rw [h]
  · exact hstart s.clearCompletion
  · exact ⟨rfl, rfl⟩

theorem startUnpack_depth_pattern (v : Word) (s : State) :
    (startUnpack v s).bitDepth = s.bitDepth ∧ (startUnpack v s).pattern = s.pattern := by
  rcases startUnpack_cases v s with ⟨f, -, h⟩ | ⟨-, -, -, -, -, -, h⟩ <;> rw [h] <;> exact ⟨rfl, rfl⟩

theorem startDemosaic_depth_pattern (v : Word) (s : State) :
    (startDemosaic v s).bitDepth = s.bitDepth ∧ (startDemosaic v s).pattern = s.pattern := by
  rcases startDemosaic_cases v s with ⟨f, -, h⟩ | ⟨-, h⟩ | ⟨-, -, -, -, -, h⟩ <;> rw [h] <;> exact ⟨rfl, rfl⟩

/-- The frame of a command that keeps the depth and the pattern as well. -/
theorem CommandKeeps.keepsConfig {s t : State} (h : CommandKeeps s t)
    (hfixed : t.bitDepth = s.bitDepth ∧ t.pattern = s.pattern) :
    KeepsMemory s t ∧ KeepsConfig s t ∧ KeepsModel s t
      ∧ (t.phase ≠ .halt → t.ecode = s.ecode ∧ t.fpix = s.fpix ∧ t.faddr = s.faddr) := by
  obtain ⟨hmem, hmodel, hie, hwidth, hheight, hlen, hrecord⟩ := h
  obtain ⟨hdepth, hpattern⟩ := hfixed
  exact ⟨hmem, ⟨hie, hwidth, hheight, hdepth, hpattern, hlen⟩, hmodel, hrecord⟩

/-- Settles O23: a command that is presented starts or is dropped, and `SRST` resets the registers alone. -/
theorem commandFrame : Obligations.CommandFrame := by
  intro s
  refine ⟨fun i hi => ?_, fun c => ⟨_, rfl, present_keeps (startConvert_start c _) s⟩,
    ⟨s.softReset, rfl, s.softReset_byteAt, rfl, rfl, rfl⟩⟩
  rcases List.mem_pair.1 hi with rfl | rfl
  · exact ⟨_, rfl, (present_keeps (startUnpack_start _) s).keepsConfig
      (present_depth_pattern (startUnpack_depth_pattern _) s)⟩
  · exact ⟨_, rfl, (present_keeps (startDemosaic_start _) s).keepsConfig
      (present_depth_pattern (startDemosaic_depth_pattern _) s)⟩

end Sys2Proof.Machine
end

section
/-! The unpack step kinds against the closed form of a sample (spec/41_unpack_steps.md R150 to R158): whatever kind the
selector names, it stores `unpack_sample` of pixel `PIX` and ends the step. -/

namespace Sys2Proof.Machine

/-! The sum of bits of R158. -/

theorem rawBit_eq_testBit (raw : Nat → Byte) (g : Nat) : rawBit raw g = ((raw (g / 8)).toNat.testBit (g % 8)).toNat := by
  rw [rawBit, Nat.and_one_is_mod, Nat.shiftRight_eq_div_pow, Nat.toNat_testBit]

/-- Bit `k` from position `g` on, where it lies in the same byte as position `g`. -/
theorem rawBit_of_lt (raw : Nat → Byte) {g k : Nat} (h : g % 8 + k < 8) :
    rawBit raw (g + k) = ((raw (g / 8)).toNat.testBit (g % 8 + k)).toNat := by
  rw [rawBit_eq_testBit, show (g + k) / 8 = g / 8 by omega, show (g + k) % 8 = g % 8 + k by omega]

/-- And where it lies in the next one. -/
theorem rawBit_of_ge (raw : Nat → Byte) {g k : Nat} (h : 8 ≤ g % 8 + k) (hnext : g % 8 + k < 16) :
    rawBit raw (g + k) = ((raw (g / 8 + 1)).toNat.testBit (k - (8 - g % 8))).toNat := by
  rw [rawBit_eq_testBit, show (g + k) / 8 = g / 8 + 1 by omega, show (g + k) % 8 = k - (8 - g % 8) by omega]

/-- The sum of `n` bits is the number they are the low bits of. -/
theorem bitSum_eq_mod {raw : Nat → Byte} {g n x : Nat}
    (h : ∀ k < n, rawBit raw (g + k) = (x.testBit k).toNat) : bitSum raw g n = x % 2 ^ n := by
  induction n with
  | zero => simp [bitSum, Nat.mod_one]
  | succ n ih =>
    have hlow : bitSum raw g n = x % 2 ^ n := ih fun k hk => h k (by omega)
    rw [bitSum, hlow, h n (by omega), Nat.toNat_testBit, Nat.mod_pow_succ, Nat.mul_comm]

/-- The sum depends on its own bits alone. -/
theorem bitSum_congr {raw raw' : Nat → Byte} {g n : Nat} (h : ∀ k < n, rawBit raw (g + k) = rawBit raw' (g + k)) :
    bitSum raw g n = bitSum raw' g n := by
  induction n with
  | zero => rfl
  | succ n ih => rw [bitSum, bitSum, ih fun k hk => h k (by omega), h n (by omega)]

theorem bitSum_lt (raw : Nat → Byte) (g n : Nat) : bitSum raw g n < 2 ^ n := by
  induction n with
  | zero => simp [bitSum]
  | succ n ih =>
    have hbit : rawBit raw (g + n) ≤ 1 := Nat.and_le_right
    calc bitSum raw g n + rawBit raw (g + n) * 2 ^ n < 2 ^ n + 1 * 2 ^ n :=
          Nat.add_lt_add_of_lt_of_le ih (Nat.mul_le_mul_right _ hbit)
      _ = 2 ^ (n + 1) := by ring

/-- A sample scales to a byte (R155). -/
theorem unpackSample_lt (raw : Nat → Byte) (d i : Nat) : unpackSample raw d i < 256 := by
  rw [unpackSample, Nat.div_lt_iff_lt_mul (by positivity), Nat.mul_comm]
  exact Nat.mul_lt_mul_of_pos_left (bitSum_lt raw _ d) (by decide)

theorem scale_bitSum (raw : Nat → Byte) (d i : Nat) :
    scale d (bitSum raw (d * i) d) = BitVec.ofNat 8 (unpackSample raw d i) := rfl

/-- A sample inside one byte is the field of `UNPK.ONE` (R153). -/
theorem sampleOne_eq_bitSum (raw : Nat → Byte) {d i : Nat} (h : shiftOf d i + d ≤ 8) :
    sampleOne d i (raw (byteOff d i)) = bitSum raw (d * i) d := by
  have hbit : ∀ k < d, rawBit raw (d * i + k) = (((raw (byteOff d i)).toNat >>> shiftOf d i).testBit k).toNat := by
    intro k hk
    rw [Nat.testBit_shiftRight]
    exact rawBit_of_lt raw (by have : d * i % 8 + d ≤ 8 := h; omega)
  rw [bitSum_eq_mod hbit, sampleOne, Nat.and_two_pow_sub_one_eq_mod]

/-- The two parts of a sample that spans into the next byte (R154). -/
theorem sampleTwo_eq (d i : Nat) (b0 b1 : Byte) :
    sampleTwo d i b0 b1
      = 2 ^ (8 - shiftOf d i) * (b1.toNat % 2 ^ (d - (8 - shiftOf d i))) + b0.toNat >>> shiftOf d i := by
  rw [sampleTwo, Nat.and_two_pow_sub_one_eq_mod, Nat.shiftLeft_eq, Nat.add_comm, Nat.mul_comm]

/-- What is left of a byte after a shift by a bit position of it. -/
theorem byte_shiftRight_lt (b : Byte) {shift : Nat} (h : shift ≤ 8) : b.toNat >>> shift < 2 ^ (8 - shift) := by
  rw [Nat.shiftRight_eq_div_pow, Nat.div_lt_iff_lt_mul (by positivity), ← pow_add, Nat.sub_add_cancel h]
  exact b.isLt

theorem sampleTwo_lt {d i : Nat} (hspan : 8 < shiftOf d i + d) (b0 b1 : Byte) : sampleTwo d i b0 b1 < 2 ^ d := by
  have hshift : shiftOf d i < 8 := Nat.mod_lt _ (by decide)
  have hhigh : b1.toNat % 2 ^ (d - (8 - shiftOf d i)) + 1 ≤ 2 ^ (d - (8 - shiftOf d i)) :=
    Nat.mod_lt _ (by positivity)
  calc sampleTwo d i b0 b1
      < 2 ^ (8 - shiftOf d i) * (b1.toNat % 2 ^ (d - (8 - shiftOf d i))) + 2 ^ (8 - shiftOf d i) := by
        rw [sampleTwo_eq]
        exact Nat.add_lt_add_left (byte_shiftRight_lt b0 hshift.le) _
    _ = 2 ^ (8 - shiftOf d i) * (b1.toNat % 2 ^ (d - (8 - shiftOf d i)) + 1) := by ring
    _ ≤ 2 ^ (8 - shiftOf d i) * 2 ^ (d - (8 - shiftOf d i)) := Nat.mul_le_mul_left _ hhigh
    _ = 2 ^ d := by rw [← pow_add, Nat.add_sub_cancel' (by omega)]

/-- A sample that spans into the next byte is the join of `UNPK.TWO` (R154). -/
theorem sampleTwo_eq_bitSum (raw : Nat → Byte) {d i : Nat} (hspan : 8 < shiftOf d i + d) (hfit : shiftOf d i + d ≤ 16) :
    sampleTwo d i (raw (byteOff d i)) (raw (byteOff d i + 1)) = bitSum raw (d * i) d := by
  have hshift : shiftOf d i < 8 := Nat.mod_lt _ (by decide)
  have hbit : ∀ k < d, rawBit raw (d * i + k)
      = ((sampleTwo d i (raw (byteOff d i)) (raw (byteOff d i + 1))).testBit k).toNat := by
    intro k hk
    rw [sampleTwo_eq, Nat.testBit_two_pow_mul_add _ (byte_shiftRight_lt _ hshift.le)]
    split_ifs with hlow
    · rw [Nat.testBit_shiftRight]
      exact rawBit_of_lt raw (by show shiftOf d i + k < 8; omega)
    · rw [Nat.testBit_mod_two_pow, decide_eq_true (by omega), Bool.true_and]
      exact rawBit_of_ge raw (by show 8 ≤ shiftOf d i + k; omega) (by show shiftOf d i + k < 16; omega)
  rw [bitSum_eq_mod hbit, Nat.mod_eq_of_lt (sampleTwo_lt hspan _ _)]

/-- At depth 8 the sample is the raw byte itself, which the scaling leaves alone (R152). -/
theorem unpackSample_eight (raw : Nat → Byte) (i : Nat) : unpackSample raw 8 i = (raw i).toNat := by
  have hbyte : byteOff 8 i = i := Nat.mul_div_cancel_left i (by decide)
  have hshift : shiftOf 8 i = 0 := Nat.mul_mod_right 8 i
  have hlt : (raw i).toNat < 2 ^ 8 := (raw i).isLt
  rw [unpackSample, ← sampleOne_eq_bitSum raw (by omega), sampleOne, hbyte, hshift, Nat.shiftRight_zero,
    Nat.and_two_pow_sub_one_eq_mod, Nat.mod_eq_of_lt hlt]
  exact Nat.mul_div_cancel _ (by decide)

/-! The steps. -/

/-- No sample of a legal depth needs a third byte (R157). -/
theorem shiftOf_add_le {d : Nat} (hd : d ∈ Config.legalDepths) (i : Nat) : shiftOf d i + d ≤ 16 := by
  show d * i % 8 + d ≤ 16
  simp only [Config.legalDepths, List.mem_cons, List.not_mem_nil, or_false] at hd
  rcases hd with rfl | rfl | rfl | rfl | rfl | rfl | rfl | rfl | rfl | rfl | rfl | rfl <;> omega

/-- The first raw byte of a sample is a byte of the frame (R150). -/
theorem byteOff_lt_frameBytes {n d i : Nat} (hi : i < n) (hd : 0 < d) : byteOff d i < frameBytes n d := by
  have hlast : d * (i + 1) ≤ n * d := Nat.mul_comm n d ▸ Nat.mul_le_mul_left d hi
  show d * i / 8 < (n * d + 8 - 1) / 8
  rw [Nat.mul_add_one] at hlast
  omega

/-- So is the next one when the sample spans into it (R154). -/
theorem byteOff_succ_lt_frameBytes {n d i : Nat} (hi : i < n) (hspan : 8 < shiftOf d i + d) :
    byteOff d i + 1 < frameBytes n d := by
  have hlast : d * (i + 1) ≤ n * d := Nat.mul_comm n d ▸ Nat.mul_le_mul_left d hi
  have hcross : 8 < d * i % 8 + d := hspan
  show d * i / 8 + 1 < (n * d + 8 - 1) / 8
  rw [Nat.mul_add_one] at hlast
  omega

theorem pos_of_mem_legalDepths {d : Nat} (hd : d ∈ Config.legalDepths) : 0 < d :=
  Nat.pos_of_ne_zero fun hzero => absurd (hzero ▸ hd) (by decide)

/-- The start checks of `UNPACK` that the memory accesses of its steps rest on (R122). -/
def UnpackChecks (s : State) : Prop :=
  s.d ∈ Config.legalDepths ∧ s.rawlen ≤ s.caps.raw ∧ s.npix ≤ s.caps.plane

/-- They hold, and `PIX` is a pixel of the frame: what an unpack step starts from (R127). -/
def UnpackFrame (s : State) : Prop := s.p < s.npix ∧ UnpackChecks s

/-- The state after the unpack step of pixel `PIX`, by the closed form of R158. -/
def State.unpackPixel (s : State) : State :=
  (s.setByte .plane s.p (BitVec.ofNat 8 (unpackSample (s.byteAt .raw) s.d s.p))).endUnpackStep

/-- The first raw read of a step finds its byte. -/
theorem UnpackFrame.byteOff_lt {s : State} (h : UnpackFrame s) : byteOff s.d s.p < s.caps.raw := by
  obtain ⟨hp, hd, hraw, -⟩ := h
  exact (byteOff_lt_frameBytes hp (pos_of_mem_legalDepths hd)).trans_le hraw

/-- The write-back of a step finds its byte. -/
theorem UnpackFrame.finishUnpack {s : State} (h : UnpackFrame s) (out : Byte) :
    finishUnpack out s = .next (s.setByte .plane s.p out).endUnpackStep := by
  obtain ⟨hp, -, -, hplane⟩ := h
  exact finishUnpack_ok (hp.trans_le hplane)

theorem execUnpkCopy_of_frame {s : State} (h : UnpackFrame s) (hd : s.d = 8) : execUnpkCopy s = .next s.unpackPixel := by
  have hbyte : byteOff s.d s.p = s.p := by rw [hd]; exact Nat.mul_div_cancel_left s.p (by decide)
  rw [execUnpkCopy, withByte_ok (hbyte ▸ h.byteOff_lt), h.finishUnpack, State.unpackPixel, hd, unpackSample_eight,
    BitVec.ofNat_toNat, BitVec.setWidth_eq]

/-- The second byte that `UNPK.ONE` reads is not used, whether the read is made or suppressed (R151, R153). -/
theorem execUnpkOne_of_frame {s : State} (h : UnpackFrame s) (hinside : shiftOf s.d s.p + s.d ≤ 8) :
    execUnpkOne s = .next s.unpackPixel := by
  rw [execUnpkOne, withByte_ok h.byteOff_lt, sampleOne_eq_bitSum (s.byteAt .raw) hinside, scale_bitSum, h.finishUnpack]
  obtain ⟨-, -, hraw, -⟩ := h
  rcases Nat.lt_or_ge (byteOff s.d s.p + 1) s.rawlen with hread | hpast
  · exact withSecondByte_ok hread (hread.trans_le hraw)
  · exact withSecondByte_past hpast

theorem execUnpkTwo_of_frame {s : State} (h : UnpackFrame s) (hspan : 8 < shiftOf s.d s.p + s.d) :
    execUnpkTwo s = .next s.unpackPixel := by
  obtain ⟨hp, hd, hraw, -⟩ := id h
  have hread : byteOff s.d s.p + 1 < s.rawlen := byteOff_succ_lt_frameBytes hp hspan
  rw [execUnpkTwo, withByte_ok h.byteOff_lt, withSecondByte_ok hread (hread.trans_le hraw),
    sampleTwo_eq_bitSum (s.byteAt .raw) hspan (shiftOf_add_le hd s.p), scale_bitSum, h.finishUnpack, State.unpackPixel]

/-- The kind that the selector names (R94). -/
theorem State.decode_ustepSelector (s : State) :
    decode (.ustep s.ustepSelector) = .instr
      (if s.d = 8 then .unpkCopy else if 8 < shiftOf s.d s.p + s.d then .unpkTwo else .unpkOne) := by
  by_cases hd : s.d = 8
  · have hshift : shiftOf 8 s.p = 0 := Nat.mul_mod_right 8 s.p
    simp [State.ustepSelector, decode, decodeUstep, hd, hshift]
  · by_cases hspan : 8 < shiftOf s.d s.p + s.d <;> simp [State.ustepSelector, decode, decodeUstep, hd, hspan]

/-- The kind that the selector names stores the sample of R158 and ends the step. -/
theorem exec_of_ustepSelector {s : State} {i : Instr} (h : UnpackFrame s)
    (hi : decode (.ustep s.ustepSelector) = .instr i) : exec i s = .next s.unpackPixel := by
  obtain rfl := Decoded.instr.inj (s.decode_ustepSelector.symm.trans hi)
  split_ifs with hd hspan
  · exact execUnpkCopy_of_frame h hd
  · exact execUnpkTwo_of_frame h hspan
  · exact execUnpkOne_of_frame h (not_lt.1 hspan)

theorem State.unpackPixel_plane (s : State) :
    s.unpackPixel.plane = s.plane.write s.p (BitVec.ofNat 8 (unpackSample (s.byteAt .raw) s.d s.p)) := by
  rw [State.unpackPixel, State.endUnpackStep_plane, State.setByte_plane_plane]

/-- The sample of a pixel of the frame depends on the bits of the frame alone (R64). -/
theorem unpackSample_congr {raw raw' : Nat → Byte} {d n i : Nat} (hi : i < n)
    (h : ∀ g < d * n, rawBit raw g = rawBit raw' g) : unpackSample raw d i = unpackSample raw' d i := by
  have hlast : d * (i + 1) ≤ d * n := Nat.mul_le_mul_left d hi
  rw [Nat.mul_add_one] at hlast
  rw [unpackSample, unpackSample, bitSum_congr fun k hk => h (d * i + k) (by omega)]

/-- Settles O51: both machines store the closed form of the sample, which no padding bit enters. -/
theorem paddingBitsNeverReachThePlane : Obligations.PaddingBitsNeverReachThePlane := by
  intro s m i hp hd hraw hplane hi hbits
  have hframe : UnpackFrame s := ⟨hp, hd, hraw, hplane⟩
  refine ⟨_, _, exec_of_ustepSelector hframe hi, exec_of_ustepSelector (s := { s with raw := m }) hframe hi, ?_⟩
  rw [State.unpackPixel_plane, State.unpackPixel_plane, unpackSample_congr hp hbits]
  rfl

end Sys2Proof.Machine
end

section
/-! A whole run of `UNPACK` (spec/40_commands.md R122, R127, R128): its acceptance, then one step for each pixel. -/

namespace Sys2Proof.Machine

/-! Runs of many steps. -/

theorem runSteps_succ {s t : State} (h : step s = .next t) (n : Nat) : runSteps (n + 1) s = runSteps n t := by
  simp [runSteps, h]

/-- A run may be cut at any step. -/
theorem runSteps_add {m : Nat} {s t : State} (h : runSteps m s = .next t) (n : Nat) :
    runSteps (m + n) s = runSteps n t := by
  induction m generalizing s with
  | zero =>
    obtain rfl := Host.Outcome.next.inj h
    rw [Nat.zero_add]
  | succ m ih =>
    rw [runSteps] at h
    split at h
    next u hstep => rw [Nat.add_right_comm, runSteps_succ hstep, ih h]
    all_goals cases h

theorem runSteps_one {s t : State} (h : step s = .next t) : runSteps 1 s = .next t :=
  runSteps_succ h 0

/-! The step of a pixel inside a run. -/

theorem State.popTurn_of_nil {s : State} (h : s.agenda = []) : s.popTurn = s := by
  have htail : s.agenda.tail = s.agenda := by rw [h]; rfl
  rw [State.popTurn, htail]

/-- In the unpack phase the block's step stores the sample of pixel `PIX`. -/
theorem step_unpackPixel {s : State} (hturn : s.agenda = [] ∨ ∃ rest, s.agenda = .block :: rest)
    (hphase : s.phase = .unpack) (h : UnpackFrame s) : step s = .next s.popTurn.unpackPixel := by
  obtain ⟨i, hdecode⟩ : ∃ i, decode (.ustep s.ustepSelector) = .instr i := ⟨_, s.decode_ustepSelector⟩
  have hwork : blockWork s = .run i := by simp only [blockWork, hphase, selectorWork, hdecode]
  rw [step_of_run ((nextWork_of_block hturn).trans hwork)]
  exact exec_of_ustepSelector (s := s.popTurn) h hdecode

/-- The plane once the first `n` pixels of the frame are unpacked. -/
def State.unpackedPlane (s : State) : Nat → Memory
  | 0 => s.plane
  | n + 1 => (s.unpackedPlane n).write n (BitVec.ofNat 8 (unpackSample (s.byteAt .raw) s.d n))

/-- A run of an unpack phase that started in `s`, before the step of pixel `n`. -/
def State.unpackedTo (s : State) (n : Nat) : State :=
  { s with plane := s.unpackedPlane n, pix := BitVec.ofNat 32 n }

/-- Each pixel of a run is stored, and a later pixel leaves it alone. -/
theorem State.unpackedPlane_read (s : State) {i n : Nat} (hi : i < n) :
    (s.unpackedPlane n).read i = some (BitVec.ofNat 8 (unpackSample (s.byteAt .raw) s.d i)) := by
  induction n with
  | zero => omega
  | succ n ih =>
    rw [State.unpackedPlane]
    rcases Nat.eq_or_lt_of_le (Nat.le_of_lt_succ hi) with rfl | hlt
    · exact Memory.read_write_same ..
    · rw [Memory.read_write_other _ _ _ _ hlt.ne, ih hlt]

/-- Every stored pixel is the closed form of its sample (R158). -/
theorem State.unpackedTo_byteAt_plane (s : State) {i n : Nat} (hi : i < n) :
    ((s.unpackedTo n).byteAt .plane i).toNat = unpackSample (s.byteAt .raw) s.d i := by
  have hread : ((s.unpackedTo n).mem .plane).read i = some _ := s.unpackedPlane_read hi
  rw [State.byteAt, hread]
  exact Nat.mod_eq_of_lt (unpackSample_lt ..)

theorem State.unpackedTo_p {s : State} {n : Nat} (hn : n < s.npix) : (s.unpackedTo n).p = n :=
  Nat.mod_eq_of_lt (hn.trans s.npix_lt)

/-- The step of pixel `n` brings the run to the next pixel, or ends the phase at the last one (R128). -/
theorem unpackPixel_unpackedTo {s : State} {n : Nat} (hn : n < s.npix) :
    (s.unpackedTo n).unpackPixel =
      if n + 1 = s.npix then
        if s.chain then { s.unpackedTo (n + 1) with chain := false, pix := 0#32, phase := .demosaic }
        else { s.unpackedTo (n + 1) with phase := .idle, done := true }
      else s.unpackedTo (n + 1) := by
  have hp : (s.unpackedTo n).p = n := State.unpackedTo_p hn
  have hpix : (s.unpackedTo n).pix + 1#32 = BitVec.ofNat 32 (n + 1) := (BitVec.ofNat_add n 1).symm
  have hsucc := State.toNat_pix_succ (s := s.unpackedTo n) (hp.symm ▸ hn)
  rw [State.unpackPixel, State.endUnpackStep_eq, State.setByte_pix, State.setByte_npix, hsucc, hpix, hp]
  rfl

theorem step_unpackedTo {s : State} (hphase : s.phase = .unpack) (hagenda : s.agenda = []) (hchecks : UnpackChecks s)
    {n : Nat} (hn : n < s.npix) : step (s.unpackedTo n) = .next (s.unpackedTo n).unpackPixel := by
  have hframe : UnpackFrame (s.unpackedTo n) := ⟨(State.unpackedTo_p hn).symm ▸ hn, hchecks⟩
  rw [step_unpackPixel (s := s.unpackedTo n) (.inl hagenda) hphase hframe,
    State.popTurn_of_nil (s := s.unpackedTo n) hagenda]

theorem runSteps_unpackedTo {s : State} (hphase : s.phase = .unpack) (hagenda : s.agenda = []) (hchecks : UnpackChecks s)
    {n : Nat} (hn : n < s.npix) : runSteps n (s.unpackedTo 0) = .next (s.unpackedTo n) := by
  induction n with
  | zero => rfl
  | succ n ih =>
    have hbefore : n < s.npix := Nat.lt_of_succ_lt hn
    rw [runSteps_add (ih hbefore), runSteps_one (step_unpackedTo hphase hagenda hchecks hbefore),
      unpackPixel_unpackedTo hbefore, if_neg hn.ne]

/-- The unpack phase of a frame takes `NPIX` steps, and outside a conversion ends in `IDLE` with `DONE` set. -/
theorem runSteps_unpackPhase {s : State} (hphase : s.phase = .unpack) (hagenda : s.agenda = []) (hchecks : UnpackChecks s)
    (hpix : s.pix = 0#32) (hchain : s.chain = false) (hsome : 0 < s.npix) :
    runSteps s.npix s = .next { s.unpackedTo s.npix with phase := .idle, done := true } := by
  obtain ⟨n, hn⟩ := Nat.exists_eq_add_of_le' hsome
  have hlast : n < s.npix := by omega
  have hstart : s = s.unpackedTo 0 := by rw [State.unpackedTo, ← hpix]; rfl
  rw [hn]
  conv_lhs => rw [hstart]
  rw [runSteps_add (runSteps_unpackedTo hphase hagenda hchecks hlast),
    runSteps_one (step_unpackedTo hphase hagenda hchecks hlast), unpackPixel_unpackedTo hlast, if_pos hn.symm, hchain]
  rfl

/-! The acceptance of the command. -/

/-- The state that an accepted `UNPACK` starts its phase in (R121, R122). -/
def State.unpackStart (s : State) : State :=
  { s with done := false, patnop := false, chain := false, pix := 0#32, phase := .unpack }

theorem execUnpack_accepted {s : State} (hphase : s.phase = .idle) (hw : s.w ≠ 0) (hh : s.h ≠ 0) (hchecks : UnpackChecks s)
    (hlen : s.rawlen ≤ s.rawLen.toNat) : execUnpack s = .next s.unpackStart := by
  obtain ⟨hdepth, hraw, hplane⟩ := hchecks
  have hsize : ¬ (s.w = 0 ∨ s.h = 0) := not_or.2 ⟨hw, hh⟩
  have hfits : ¬ (s.caps.raw < s.rawlen ∨ s.caps.plane < s.npix) := not_or.2 ⟨hraw.not_gt, hplane.not_gt⟩
  rw [execUnpack, State.present, if_pos hphase, startUnpack]
  exact congrArg _ <| (if_neg hsize).trans <| (if_neg (not_not.2 hdepth)).trans <| (if_neg hfits).trans <|
    if_neg hlen.not_gt

/-- A word written to `CMD` is the work of the step (R120). -/
theorem nextWork_command {s : State} {v : Word} {rest : List Turn} (hagenda : s.agenda = .host (.regWrite 1 v) :: rest) :
    nextWork s = commandWork v := by
  rw [nextWork, hagenda]
  rfl

theorem step_unpackCommand {s : State} {rest : List Turn} (hagenda : s.agenda = .host (.regWrite 1 0x00000001#32) :: rest) :
    step s = execUnpack { s with agenda := rest } := by
  have hwork : nextWork s = .run .unpack := nextWork_command hagenda
  rw [step_of_run hwork, State.popTurn_eq hagenda]
  rfl

/-- The whole run of a command that the host presents as its last turn. -/
theorem runSteps_unpack {s : State} (hphase : s.phase = .idle) (hagenda : s.agenda = [.host (.regWrite 1 0x00000001#32)])
    (hw : s.w ≠ 0) (hh : s.h ≠ 0) (hchecks : UnpackChecks s) (hlen : s.rawlen ≤ s.rawLen.toNat) :
    let u := State.unpackStart { s with agenda := [] }
    runSteps (1 + s.npix) s = .next { u.unpackedTo s.npix with phase := .idle, done := true } := by
  intro u
  have haccept : step s = .next u :=
    (step_unpackCommand hagenda).trans (execUnpack_accepted (s := { s with agenda := [] }) hphase hw hh hchecks hlen)
  rw [runSteps_add (runSteps_one haccept)]
  exact runSteps_unpackPhase (s := u) rfl rfl hchecks rfl rfl (State.npix_pos hw hh)

/-- Samples packed least significant bit first are the samples of the closed form (R63). -/
theorem unpackSample_of_packed {raw : Nat → Byte} {d i x : Nat} (hx : x < 2 ^ d)
    (hbits : ∀ k < d, rawBit raw (d * i + k) = x / 2 ^ k % 2) : unpackSample raw d i = x * 256 / 2 ^ d := by
  rw [unpackSample, bitSum_eq_mod fun k hk => (hbits k hk).trans (Nat.toNat_testBit x k).symm, Nat.mod_eq_of_lt hx]

/-- Settles O50: the run stores the closed form of every sample, which gives back the packed one. -/
theorem unpackInvertsThePacking : Obligations.UnpackInvertsThePacking := by
  intro s v hphase hagenda hw hh hdepth hraw hplane hlen hpacked
  refine ⟨_, runSteps_unpack hphase hagenda hw hh ⟨hdepth, hraw, hplane⟩ hlen, fun i hi => ?_⟩
  obtain ⟨hv, hbits⟩ := hpacked i hi
  rw [← unpackSample_of_packed hv hbits]
  exact State.unpackedTo_byteAt_plane _ hi

end Sys2Proof.Machine
end

section
/-! What can stop a step (spec/20_memory.md R61, R69, R70, R75): in a state that meets the invariant every step of the block
and every command answers a next state, and so does every access of the host but those of the buffers. -/

namespace Sys2Proof.Machine

open Safe

/-! A demosaic step of a frame that passed its start checks stores its triple or takes `BOUNDS`. -/

theorem withPlane_answers {k : Nat} {s : State} {cont : Byte → Result} (hplane : s.npix ≤ s.caps.plane)
    (hcont : ∀ x, ∃ t, cont x = .next t) : ∃ t, withPlane k s cont = .next t := by
  rcases Nat.lt_or_ge k s.npix with hk | hk
  · rw [withPlane_ok hk hplane]
    exact hcont _
  · exact ⟨_, withPlane_bounds hk⟩

theorem finishDemosaic_answers {s : State} (hp : s.p < s.npix) (hrgb : s.rgblen ≤ s.caps.rgb) (b g r : Byte) :
    ∃ t, finishDemosaic b g r s = .next t := by
  have htriple : 3 * s.npix ≤ s.caps.rgb := hrgb
  exact ⟨_, finishDemosaic_ok (by omega)⟩

theorem exec_demosaicKind_answers {i : Instr} {s : State} (hi : i ∈ demosaicKinds) (hp : s.p < s.npix)
    (hplane : s.npix ≤ s.caps.plane) (hrgb : s.rgblen ≤ s.caps.rgb) : ∃ t, exec i s = .next t := by
  have hfinish := finishDemosaic_answers hp hrgb
  cases i with
  | dmOO | dmEO | dmEE =>
    exact withPlane_answers hplane fun _ => withPlane_answers hplane fun _ => withPlane_answers hplane fun _ => hfinish ..
  | dmOE =>
    exact withPlane_answers hplane fun _ => withPlane_answers hplane fun _ => withPlane_answers hplane fun _ =>
      withPlane_answers hplane fun _ => hfinish ..
  | _ => simp at hi

/-! The block's turn, and the host's. -/

theorem block_step_answers {s : State} (hs : Invariant s) (hturn : s.agenda = [] ∨ ∃ rest, s.agenda = .block :: rest) :
    ∃ t, step s = .next t := by
  obtain ⟨-, -, -, hunpack, hdemosaic⟩ := hs
  cases hphase : s.phase with
  | unpack =>
    obtain ⟨hp, hdepth, hraw, hplane, -⟩ := hunpack hphase
    exact ⟨_, step_unpackPixel hturn hphase ⟨hp, hdepth, hraw, hplane⟩⟩
  | demosaic =>
    obtain ⟨hp, hplane, hrgb, -⟩ := hdemosaic hphase
    obtain ⟨i, hi, hwork⟩ := blockWork_demosaic hphase
    rw [step_of_run ((nextWork_of_block hturn).trans hwork)]
    exact exec_demosaicKind_answers (s := s.popTurn) hi hp hplane hrgb
  | idle | halt =>
    have hrest : nextWork s = .rest := by rw [nextWork_of_block hturn, blockWork, hphase]
    exact ⟨s.popTurn, by rw [step, hrest]⟩

/-- No command faults in the model: the five faults of the hardware are next states (R231). -/
theorem exec_command_answers {i : Instr} (hi : i ∉ unpackKinds ++ demosaicKinds) (s : State) :
    ∃ t, exec i s = .next t := by
  cases i with
  | unpack | demosaic | convert | srst => exact ⟨_, rfl⟩
  | _ => simp at hi

/-- A command word is run or, where it is illegal, presented as R126 says. -/
theorem commandWord_step_answers {s : State} {v : Word} {rest : List Turn}
    (hagenda : s.agenda = .host (.regWrite 1 v) :: rest) : ∃ t, step s = .next t := by
  have hwork := nextWork_command hagenda
  cases hdecode : decode (.cmdw v) with
  | instr i =>
    rw [step_of_run (i := i) (by rw [hwork, commandWork, hdecode])]
    exact exec_command_answers (decodeCommand_not_mem hdecode) s.popTurn
  | reject r =>
    have hillegal : nextWork s = .illegal v := by rw [hwork, commandWork, hdecode]
    exact ⟨_, by rw [step, hillegal]; rfl⟩

theorem pollStatus_answers (s : State) : ∃ t, pollStatus s = .next t := by
  unfold pollStatus
  dsimp only
  split <;> exact ⟨_, rfl⟩

/-- The first turn is the host's access to a byte of a buffer. -/
def BufferTurn (s : State) : Prop :=
  ∃ sp k rest, s.agenda = .host (.bufRead sp k) :: rest ∨ ∃ b, s.agenda = .host (.bufWrite sp k b) :: rest

/-- An access of the host answers a next state, or is a buffer access that is refused. -/
theorem host_step_answers {s : State} {a : HostAccess} {rest : List Turn} (hagenda : s.agenda = .host a :: rest) :
    (∃ t, step s = .next t) ∨ (BufferTurn s ∧ ∃ r, step s = .refused r) := by
  cases a with
  | regRead | hardReset | sampleIrq => exact .inl ⟨_, step_of_access hagenda rfl⟩
  | regWrite n v =>
    by_cases hn : n = 1
    · subst hn
      exact .inl (commandWord_step_answers hagenda)
    · exact .inl ⟨_, step_regWrite hagenda hn⟩
  | bufRead sp k =>
    rw [step_bufRead hagenda]
    exact (hostBuffer_answers ..).imp (fun h => ⟨_, h⟩) fun h => ⟨⟨sp, k, rest, .inl hagenda⟩, h⟩
  | bufWrite sp k b =>
    rw [step_bufWrite hagenda]
    exact (hostBuffer_answers ..).imp (fun h => ⟨_, h⟩) fun h => ⟨⟨sp, k, rest, .inr ⟨b, hagenda⟩⟩, h⟩

/-- Every step from a state that meets the invariant, by whose turn it is. -/
theorem step_answers {s : State} (hs : Invariant s) :
    (∃ t, step s = .next t) ∨ (BufferTurn s ∧ ∃ r, step s = .refused r) := by
  match hagenda : s.agenda with
  | [] => exact .inl (block_step_answers hs (.inl hagenda))
  | .block :: rest => exact .inl (block_step_answers hs (.inr ⟨rest, hagenda⟩))
  | .wait :: rest =>
    have hpoll : nextWork s = .poll := by rw [nextWork, hagenda]
    rw [step, hpoll]
    exact .inl (pollStatus_answers s.popTurn)
  | .host a :: rest => exact host_step_answers hagenda

/-- Settles O40: a step answers a next state unless it is a buffer access that is refused. -/
theorem invariantExcludesFaults : Obligations.InvariantExcludesFaults := by
  intro s hs
  rcases step_answers hs with ⟨t, hnext⟩ | ⟨hbuffer, r, hrefused⟩
  · exact ⟨fun _ h => (nomatch hnext.symm.trans h), fun _ h => (nomatch hnext.symm.trans h)⟩
  · exact ⟨fun _ h => (nomatch hrefused.symm.trans h), fun _ _ => hbuffer⟩

end Sys2Proof.Machine
end

section
/-! The encodings (spec/30_encoding.md R90 to R97): which words each row of the command table matches, and that the
encoder and the decoder are inverse to each other. -/

namespace Sys2Proof

/-! The fields of a command word, as numbers (R90). -/

theorem cmdArg_eq (v : Word) : cmdArg v = v.toNat / 256 % 256 := by
  rw [cmdArg, BitVec.extractLsb'_toNat, Nat.shiftRight_eq_div_pow]

/-- The mask of `CONVERT` keeps `OP` and `RSV` and drops `ARG`. -/
theorem and_convertMask_eq_iff (v : Word) :
    v &&& 0xFFFF00FF#32 = 0x00000003#32 ↔ v.toNat % 256 = 3 ∧ v.toNat / 65536 = 0 := by
  have hv := v.isLt
  rw [← BitVec.toNat_inj, BitVec.toNat_and]
  show v.toNat &&& 0xFFFF00FF = 3 ↔ _
  have hop : (v.toNat &&& 0xFFFF00FF) % 256 = v.toNat % 256 := by
    have hlow := Nat.and_two_pow_sub_one_eq_mod (v.toNat % 256) 8
    exact (Nat.and_mod_two_pow (n := 8)).trans (hlow.trans (Nat.mod_mod _ 256))
  have harg : (v.toNat &&& 0xFFFF00FF) / 256 % 256 = 0 := by
    rw [Nat.and_div_two_pow (n := 8), Nat.and_mod_two_pow (n := 8)]
    exact Nat.and_zero _
  have hrsv : (v.toNat &&& 0xFFFF00FF) / 65536 = v.toNat / 65536 := by
    have hlow := Nat.and_two_pow_sub_one_eq_mod (v.toNat / 65536) 16
    exact (Nat.and_div_two_pow (n := 16)).trans (hlow.trans (Nat.mod_eq_of_lt (by omega)))
  omega

/-- `ARG` stands above `OP`, and no bit of a type below 256 is dropped. -/
theorem toNat_convertWord {c : Nat} (hc : c < 256) :
    (0x00000003#32 ||| (BitVec.ofNat 32 c <<< 8)).toNat = 256 * c + 3 := by
  have hshift : (BitVec.ofNat 32 c <<< 8).toNat = 256 * c := by
    rw [BitVec.toNat_shiftLeft, BitVec.toNat_ofNat, Nat.shiftLeft_eq]
    omega
  rw [BitVec.toNat_or, hshift, Nat.or_comm]
  exact (Nat.two_pow_add_eq_or_of_lt (i := 8) (by decide) c).symm

/-- The row of `CONVERT` matches exactly the encodings of its 256 types. -/
theorem convertWord_eq_iff {c : Nat} {v : Word} :
    (c < 256 ∧ 0x00000003#32 ||| (BitVec.ofNat 32 c <<< 8) = v)
      ↔ v &&& 0xFFFF00FF#32 = 0x00000003#32 ∧ c = cmdArg v := by
  rw [and_convertMask_eq_iff, cmdArg_eq]
  constructor
  · rintro ⟨hc, rfl⟩
    rw [toNat_convertWord hc]
    omega
  · rintro ⟨⟨hop, hrsv⟩, rfl⟩
    have hc : v.toNat / 256 % 256 < 256 := Nat.mod_lt _ (by decide)
    refine ⟨hc, BitVec.eq_of_toNat_eq ?_⟩
    rw [toNat_convertWord hc]
    omega

/-! The decoder of command words, by its rows. -/

theorem decodeCommand_convert {v : Word} (h : v &&& 0xFFFF00FF#32 = 0x00000003#32) :
    decodeCommand v = .instr (.convert (cmdArg v)) := by
  have hother {m : Word} (hm : m &&& 0xFFFF00FF#32 ≠ 0x00000003#32) : v ≠ m := fun hv => hm (hv ▸ h)
  rw [decodeCommand, if_neg (hother (by decide)), if_neg (hother (by decide)), if_neg (hother (by decide)), if_pos h]

/-- The decoder accepts a word as an instruction exactly when the word is the encoding of that instruction. -/
theorem decodeCommand_eq_instr_iff {v : Word} {i : Instr} :
    decodeCommand v = .instr i ↔ i.wellFormed = true ∧ encode i = .cmdw v := by
  constructor
  · intro h
    unfold decodeCommand at h
    split_ifs at h with hsrst hunpack hdemosaic hconvert
    · exact Decoded.instr.inj h ▸ ⟨rfl, congrArg _ hsrst.symm⟩
    · exact Decoded.instr.inj h ▸ ⟨rfl, congrArg _ hunpack.symm⟩
    · exact Decoded.instr.inj h ▸ ⟨rfl, congrArg _ hdemosaic.symm⟩
    · obtain rfl := Decoded.instr.inj h
      obtain ⟨hc, hword⟩ := convertWord_eq_iff.2 ⟨hconvert, rfl⟩
      exact ⟨decide_eq_true hc, congrArg _ hword⟩
  · rintro ⟨hi, hword⟩
    cases i with
    | unpack | demosaic | srst =>
      obtain rfl := Encoding.cmdw.inj hword
      rfl
    | convert c =>
      obtain ⟨hmatch, rfl⟩ := convertWord_eq_iff.1 ⟨of_decide_eq_true hi, Encoding.cmdw.inj hword⟩
      exact decodeCommand_convert hmatch
    | unpkCopy | unpkOne | unpkTwo | dmOO | dmOE | dmEO | dmEE => cases hword

/-- The rows of `UNPACK`, `DEMOSAIC` and `SRST` have the full mask, so each matches its one word. -/
theorem decodeCommand_eq_fixed_iff {v w : Word} {i : Instr} (hi : i.wellFormed = true) (hw : encode i = .cmdw w) :
    decodeCommand v = .instr i ↔ v &&& 0xFFFFFFFF#32 = w := by
  have hmask : v &&& 0xFFFFFFFF#32 = v := BitVec.and_allOnes
  rw [decodeCommand_eq_instr_iff, hw, Encoding.cmdw.injEq, hmask]
  exact ⟨fun h => h.2.symm, fun h => ⟨hi, h.symm⟩⟩

/-- The decoder rejects a word exactly when no row matches it, and then with the word itself (R93). -/
theorem decodeCommand_eq_illegal_iff (v : Word) :
    decodeCommand v = .reject (.illegalCommand v)
      ↔ v ≠ 0x00000004#32 ∧ v ≠ 0x00000001#32 ∧ v ≠ 0x00000002#32 ∧ v &&& 0xFFFF00FF#32 ≠ 0x00000003#32 := by
  unfold decodeCommand
  split_ifs with hsrst hunpack hdemosaic hconvert <;> simp [*]

theorem decodeCommand_total (v : Word) :
    (∃ i, decodeCommand v = .instr i) ∨ decodeCommand v = .reject (.illegalCommand v) := by
  unfold decodeCommand
  split_ifs
  case neg => exact .inr rfl
  all_goals exact .inl ⟨_, rfl⟩

/-! The step selectors: the rows of the two tables (R94, R95). -/

theorem decodeUstep_eq_instr {es : BitVec 2} {i : Instr} (h : decodeUstep es = .instr i) :
    i.wellFormed = true ∧ encode i = .ustep es := by
  unfold decodeUstep at h
  split_ifs at h with hes hes hes <;> obtain rfl := Decoded.instr.inj h <;> exact ⟨rfl, congrArg _ hes.symm⟩

theorem decodeDstep_eq_instr {lr : BitVec 2} {i : Instr} (h : decodeDstep lr = .instr i) :
    i.wellFormed = true ∧ encode i = .dstep lr := by
  unfold decodeDstep at h
  split_ifs at h with hOO hOE hEO <;> obtain rfl := Decoded.instr.inj h
  · exact ⟨rfl, congrArg _ hOO.symm⟩
  · exact ⟨rfl, congrArg _ hOE.symm⟩
  · exact ⟨rfl, congrArg _ hEO.symm⟩
  · have hEE : lr = 0b00#2 := by bv_omega
    exact ⟨rfl, congrArg _ hEE.symm⟩

/-! The obligations about the encoder and the decoder. -/

/-- Settles O1: a command word by `decodeCommand_eq_instr_iff`, a selector by its row of the table. -/
theorem decodeOfEncodeIsTheInstruction : Obligations.DecodeOfEncodeIsTheInstruction := by
  intro i hi
  cases i with
  | unpack | demosaic | convert | srst => exact decodeCommand_eq_instr_iff.2 ⟨hi, rfl⟩
  | unpkCopy | unpkOne | unpkTwo | dmOO | dmOE | dmEO | dmEE => rfl

/-- Settles O2, format by format. -/
theorem encoderInvertsTheDecoder : Obligations.EncoderInvertsTheDecoder := by
  intro e i h
  cases e with
  | cmdw v => exact decodeCommand_eq_instr_iff.1 h
  | ustep es => exact decodeUstep_eq_instr h
  | dstep lr => exact decodeDstep_eq_instr h

/-- Settles O3: three rows with the full mask, and the row of `CONVERT`. -/
theorem commandWordsByMatchAndMask : Obligations.CommandWordsByMatchAndMask := by
  intro v
  refine ⟨decodeCommand_eq_fixed_iff rfl rfl, decodeCommand_eq_fixed_iff rfl rfl, fun c => ?convert,
    decodeCommand_eq_fixed_iff rfl rfl⟩
  rw [← cmdArg_eq, ← convertWord_eq_iff, decode, decodeCommand_eq_instr_iff, encode, Encoding.cmdw.injEq,
    Instr.wellFormed, decide_eq_true_iff]

/-- Settles O5: each by evaluation of the tables. -/
theorem sampleEncodingsDecode : Obligations.SampleEncodingsDecode :=
  ⟨rfl, rfl, rfl, rfl, rfl, rfl, rfl, rfl⟩

end Sys2Proof
end

section
/-! What the machine makes of an encoding (spec/30_encoding.md R93 to R95, R99): an illegal word presented, the step
kind that each selector names, the model's `withFetchWord`, and the polls of `WAIT`. -/

namespace Sys2Proof.Machine

/-! Illegal command words (R93, R126). -/

theorem step_illegalCommand {s : State} {v : Word} {rest : List Turn}
    (hagenda : s.agenda = .host (.regWrite 1 v) :: rest)
    (hillegal : decode (.cmdw v) = .reject (.illegalCommand v)) :
    step s = presentIllegal v { s with agenda := rest } := by
  have hwork : nextWork s = .illegal v := by rw [nextWork_command hagenda, commandWork, hillegal]
  rw [step, hwork, ← State.popTurn_eq hagenda]

theorem presentIllegal_idle {s : State} (v : Word) (hphase : s.phase = .idle) :
    presentIllegal v s = .next (s.haltedBy .argCmd v) := by
  rw [presentIllegal, State.present, if_pos hphase, State.startFault, State.raise, BitVec.ofNat_toNat,
    BitVec.setWidth_eq]
  rfl

theorem presentIllegal_dropped {s : State} (v : Word) (hphase : s.phase ≠ .idle) : presentIllegal v s = .next s := by
  rw [presentIllegal, State.present, if_neg hphase]

/-- Settles O4: the rows are read as numbers, and an illegal word is presented by `presentIllegal`. -/
theorem illegalCommandWords : Obligations.IllegalCommandWords := by
  intro v
  refine ⟨decodeCommand_total v, ?fields, fun s rest hagenda hillegal => ?presented⟩
  case fields =>
    have hv := v.isLt
    have hword (n : Nat) (hn : n < 2 ^ 32) : v ≠ BitVec.ofNat 32 n ↔ v.toNat ≠ n := by
      rw [ne_eq, ← BitVec.toNat_inj, BitVec.toNat_ofNat, Nat.mod_eq_of_lt hn]
    rw [decode, decodeCommand_eq_illegal_iff, ne_eq (_ &&& _), and_convertMask_eq_iff, hword 4 (by decide),
      hword 1 (by decide), hword 2 (by decide)]
    omega
  case presented =>
    rw [step_illegalCommand hagenda hillegal]
    exact ⟨presentIllegal_idle (s := { s with agenda := rest }) v,
      presentIllegal_dropped (s := { s with agenda := rest }) v⟩

/-! The step selectors (R94, R95). -/

/-- The work of an unpack phase, when the block has the turn. -/
theorem nextWork_unpack {s : State} (hphase : s.phase = .unpack)
    (hturn : s.agenda = [] ∨ ∃ rest, s.agenda = .block :: rest) :
    nextWork s = .run
      (if s.d = 8 then .unpkCopy else if 8 < shiftOf s.d s.p + s.d then .unpkTwo else .unpkOne) := by
  simp only [nextWork_of_block hturn, blockWork, hphase, selectorWork, s.decode_ustepSelector]

/-- `line` and `row` count from 1, so an even quotient or remainder is an odd line or column. -/
theorem testBit_zero_succ (n : Nat) : (n + 1).testBit 0 = decide (n % 2 = 0) := by
  rw [Nat.testBit_zero, decide_eq_decide]
  omega

/-- The kind that the selector names (R95). -/
theorem State.decode_dstepSelector (s : State) :
    decode (.dstep s.dstepSelector) = .instr
      (if s.p / s.w % 2 = 0 then (if s.p % s.w % 2 = 0 then .dmOO else .dmOE)
       else (if s.p % s.w % 2 = 0 then .dmEO else .dmEE)) := by
  rw [State.dstepSelector, lineOf, rowOf, testBit_zero_succ, testBit_zero_succ]
  by_cases hline : s.p / s.w % 2 = 0 <;> by_cases hrow : s.p % s.w % 2 = 0 <;>
    simp [decode, decodeDstep, hline, hrow]

/-- At the depths that divide 8 no sample crosses a byte boundary. -/
theorem shiftOf_add_le_of_dvd {d : Nat} (hd : d ∣ 8) (i : Nat) : shiftOf d i + d ≤ 8 := by
  obtain ⟨k, hk⟩ := hd
  have hpos : 0 < k := Nat.pos_of_ne_zero fun h => by simp [h] at hk
  have hshift : shiftOf d i = d * (i % k) := by rw [shiftOf, bitOff, hk, Nat.mul_mod_mul_left]
  calc shiftOf d i + d = d * (i % k + 1) := by rw [hshift, Nat.mul_add_one]
    _ ≤ d * k := Nat.mul_le_mul_left d (Nat.mod_lt i hpos)
    _ = 8 := hk.symm

/-- Settles O6: the selection by `nextWork_unpack`, the depths by arithmetic. -/
theorem unpackStepSelection : Obligations.UnpackStepSelection := by
  refine ⟨fun s hphase hagenda => ?selected, State.ustepSelector_ne, ?oneDepths, ?twoDepths, ?crossing, ?inside⟩
  case selected =>
    rw [nextWork_unpack hphase (.inl hagenda)]
    refine ⟨fun hd => ?copy, fun hd hinside => ?one, fun hd hspan => ?two⟩
    case copy => rw [if_pos hd]
    case one => rw [if_neg hd, if_neg (show ¬ 8 < shiftOf s.d s.p + s.d from hinside.not_gt)]
    case two => rw [if_neg hd, if_pos (show 8 < shiftOf s.d s.p + s.d from hspan)]
  case oneDepths =>
    intro d _ i hinside hd
    omega
  case twoDepths =>
    intro d _ i hd
    omega
  case crossing =>
    have hfirst : ∀ d ∈ [3, 5, 6, 7], ∃ i < 3, 8 < d * i % 8 + d := by decide
    intro d hd
    obtain ⟨i, -, hspan⟩ := hfirst d hd
    exact ⟨i, hspan⟩
  case inside =>
    have hdvd : ∀ d ∈ [1, 2, 4], d ∣ 8 := by decide
    exact fun d hd i => shiftOf_add_le_of_dvd (hdvd d hd) i

/-- The work of a demosaic phase, when the block has the turn. -/
theorem nextWork_demosaic {s : State} (hphase : s.phase = .demosaic)
    (hturn : s.agenda = [] ∨ ∃ rest, s.agenda = .block :: rest) :
    nextWork s = .run
      (if s.p / s.w % 2 = 0 then (if s.p % s.w % 2 = 0 then .dmOO else .dmOE)
       else (if s.p % s.w % 2 = 0 then .dmEO else .dmEE)) := by
  simp only [nextWork_of_block hturn, blockWork, hphase, selectorWork, s.decode_dstepSelector]

/-- Settles O7, by the kind that the selector names. -/
theorem demosaicStepSelection : Obligations.DemosaicStepSelection :=
  fun _ hphase hagenda => nextWork_demosaic hphase (.inl hagenda)

/-! The model's convention of the next thing that runs (notes/assumptions/7.md, 14.md, 26.md). -/

/-- The setting for a step kind puts its selector: the frame, depth and pixel are fixed numbers. -/
theorem nextWork_selecting {i : Instr} (hi : i ∈ unpackKinds ++ demosaicKinds) (s : State) :
    nextWork (s.selecting i) = .run i := by
  cases i with
  | unpkCopy | unpkOne | unpkTwo => exact (nextWork_unpack rfl (.inr ⟨s.agenda, rfl⟩)).trans rfl
  | dmOO | dmOE | dmEO | dmEE =>
    rw [nextWork_demosaic rfl (.inr ⟨s.agenda, rfl⟩)]
    simp [State.selecting, State.p, State.w]
  | _ => simp at hi

/-- The setting for a step kind is of registers and the turn alone. -/
theorem popTurn_selecting_keeps {i : Instr} (hi : i ∈ unpackKinds ++ demosaicKinds) (s : State) :
    KeepsMemory s (s.selecting i).popTurn ∧ KeepsModel s (s.selecting i).popTurn := by
  cases i with
  | unpkCopy | unpkOne | unpkTwo | dmOO | dmOE | dmEO | dmEE =>
    exact ⟨fun sp k => by cases sp <;> rfl, rfl, rfl, rfl⟩
  | _ => simp at hi

theorem step_selecting {i : Instr} (hi : i ∈ unpackKinds ++ demosaicKinds) (s : State) :
    ∃ u, step (s.selecting i) = exec i u ∧ KeepsMemory s u ∧ KeepsModel s u :=
  ⟨_, step_of_run (nextWork_selecting hi s), popTurn_selecting_keeps hi s⟩

/-- A command word is presented in the state itself: its turn is placed and taken again. -/
theorem step_withCommand {v : Word} {i : Instr} (h : decode (.cmdw v) = .instr i) (s : State) :
    step (s.withEncoding (.cmdw v)) = exec i s := by
  have hwork : nextWork (s.withEncoding (.cmdw v)) = .run i := by rw [nextWork_command rfl, commandWork, h]
  rw [step_of_run hwork]
  rfl

/-- An accepted encoding is the next thing that runs. -/
theorem step_withEncoding {e : Encoding} {i : Instr} (h : decode e = .instr i) (s : State) :
    ∃ u, step (s.withEncoding e) = exec i u ∧ KeepsMemory s u ∧ KeepsModel s u := by
  cases e with
  | cmdw v => exact ⟨s, step_withCommand h s, fun _ _ => rfl, rfl, rfl, rfl⟩
  | ustep es =>
    have hes : decodeUstep es = .instr i := h
    obtain ⟨j, hj, hdecode⟩ := decodeUstep_instr es fun h11 => by subst h11; cases hes
    obtain rfl := Decoded.instr.inj (hdecode.symm.trans hes)
    simp only [State.withEncoding, hdecode]
    exact step_selecting (List.mem_append_left _ hj) s
  | dstep lr =>
    obtain ⟨j, hj, hdecode⟩ := decodeDstep_instr lr
    obtain rfl := Decoded.instr.inj (hdecode.symm.trans h)
    simp only [State.withEncoding, hdecode]
    exact step_selecting (List.mem_append_right _ hj) s

/-- Every number that the table reads stands for an encoding that the decoder accepts. -/
theorem tableEncoding_of_decodeTableWord {nbits w : Nat} {i : Instr} (h : decodeTableWord nbits w = some i) :
    ∃ e, tableEncoding nbits w = some e ∧ decode e = .instr i := by
  unfold decodeTableWord at h
  cases he : tableEncoding nbits w with
  | none => simp [he] at h
  | some e =>
    cases hdecode : decode e with
    | instr j =>
      simp only [he, hdecode, Decoded.instr?, Option.some.injEq] at h
      exact ⟨e, rfl, h ▸ hdecode⟩
    | reject r => simp [he, hdecode, Decoded.instr?] at h

/-- Settles O48: the number is read as its encoding, and `withEncoding` makes that the next thing to run. -/
theorem fetchWordRunsTheTableRow : Obligations.FetchWordRunsTheTableRow := by
  intro s nbits w i h
  obtain ⟨e, he, hdecode⟩ := tableEncoding_of_decodeTableWord h
  have hfetch : s.withFetchWord nbits w = s.withEncoding e := by simp only [State.withFetchWord, he]
  rw [hfetch]
  refine ⟨fun hbits => ?command, step_withEncoding hdecode s⟩
  rw [tableEncoding, if_pos hbits] at he
  obtain rfl := Option.some.inj he
  exact step_withCommand hdecode s

/-! The polls of `WAIT` (R99). -/

/-- A poll is answered with the `STATUS` word; its bit `BUSY` says whether another poll follows. -/
theorem step_wait {s : State} {rest : List Turn} (hagenda : s.agenda = .wait :: rest) :
    step s = .next { s with
      agenda := if s.busy then .block :: .wait :: rest else rest
      replies := .reg 2 s.statusWord :: s.replies } := by
  have hwork : nextWork s = .poll := by rw [nextWork, hagenda]
  have hstatus : State.statusWord { s with agenda := rest } = s.statusWord := rfl
  rw [step, hwork, State.popTurn_eq hagenda]
  simp only [pollStatus, hstatus, s.statusWord_flags.1]
  cases s.busy <;> rfl

/-- Settles O56, by the two values of `BUSY` in `step_wait`. -/
theorem waitPollsUntilNotBusy : Obligations.WaitPollsUntilNotBusy := by
  intro s rest hagenda
  rw [step_wait hagenda]
  exact ⟨fun hbusy => by rw [hbusy]; rfl, fun hfree => by rw [hfree]; rfl⟩

end Sys2Proof.Machine
end

section
/-! The acceptance of a command word (spec/40_commands.md R120 to R126): which words start what, the start checks of each
command in their order, and the instruction a step runs. -/

namespace Sys2Proof.Machine

/-! The instruction that a step runs (R120, R127). -/

/-- A word written to `CMD` runs the instruction it decodes to. -/
theorem step_command {s : State} {v : Word} {rest : List Turn} {i : Instr}
    (hagenda : s.agenda = .host (.regWrite 1 v) :: rest) (hdecode : decode (.cmdw v) = .instr i) :
    step s = exec i { s with agenda := rest } := by
  have hwork : nextWork s = .run i := by rw [nextWork_command hagenda, commandWork, hdecode]
  rw [step_of_run hwork, State.popTurn_eq hagenda]

/-- On the block's turn the step is the block's work. -/
theorem step_of_blockWork {s : State} {i : Instr} (hturn : s.agenda = [] ∨ ∃ rest, s.agenda = .block :: rest)
    (hwork : blockWork s = .run i) : step s = exec i s.popTurn :=
  step_of_run ((nextWork_of_block hturn).trans hwork)

/-- A block in `IDLE` or `HALT` has no step to take. -/
theorem step_of_rest {s : State} (hturn : s.agenda = [] ∨ ∃ rest, s.agenda = .block :: rest)
    (hphase : s.phase = .idle ∨ s.phase = .halt) : step s = .next s.popTurn := by
  have hrest : nextWork s = .rest := by
    rcases hphase with hphase | hphase <;> rw [nextWork_of_block hturn, blockWork, hphase]
  rw [step, hrest]

/-- Settles O47: the command word by `step_command`, the block's turn by the selector of its phase. -/
theorem stepRunsTheDecodedInstruction : Obligations.StepRunsTheDecodedInstruction := by
  refine fun s i => ⟨fun v rest hagenda hdecode => step_command hagenda hdecode, fun hturn =>
    ⟨fun hphase hdecode => step_of_blockWork hturn ?unpack, fun hphase hdecode => step_of_blockWork hturn ?demosaic,
      step_of_rest hturn⟩⟩
  case unpack => simp only [blockWork, hphase, selectorWork, hdecode]
  case demosaic => simp only [blockWork, hphase, selectorWork, hdecode]

/-! Presenting a command. -/

/-- In `IDLE` the completion flags are cleared and the command starts (R121). -/
theorem State.present_idle {s : State} (hphase : s.phase = .idle) (start : State → State) :
    s.present start = start s.clearCompletion := if_pos hphase

/-- In every other phase it is dropped (R120). -/
theorem State.present_dropped {s : State} (hphase : s.phase ≠ .idle) (start : State → State) : s.present start = s :=
  if_neg hphase

/-- Outside `IDLE` every command but `SRST` is dropped. -/
theorem exec_command_dropped {i : Instr} {s : State} (hi : i ∉ unpackKinds ++ demosaicKinds) (hsrst : i ≠ .srst)
    (hphase : s.phase ≠ .idle) : exec i s = .next s := by
  cases i with
  | unpack | demosaic | convert => exact congrArg _ (State.present_dropped hphase _)
  | srst => exact absurd rfl hsrst
  | _ => simp at hi

/-- An accepted command clears the completion flags first, so it does not see them. -/
theorem exec_command_clearCompletion {i : Instr} {s : State} (hi : i ∉ unpackKinds ++ demosaicKinds) (hsrst : i ≠ .srst)
    (hphase : s.phase = .idle) : exec i s = exec i s.clearCompletion := by
  have hcleared : s.clearCompletion.phase = .idle := hphase
  cases i with
  | unpack | demosaic | convert =>
    exact congrArg Host.Outcome.next ((State.present_idle hphase _).trans (State.present_idle hcleared _).symm)
  | srst => exact absurd rfl hsrst
  | _ => simp at hi

/-- The step of an accepted command word, its completion flags cleared. -/
theorem step_command_idle {s : State} {v : Word} {rest : List Turn} {i : Instr}
    (hagenda : s.agenda = .host (.regWrite 1 v) :: rest) (hdecode : decode (.cmdw v) = .instr i) (hsrst : i ≠ .srst)
    (hphase : s.phase = .idle) : step s = exec i (State.clearCompletion { s with agenda := rest }) := by
  rw [step_command hagenda hdecode]
  exact exec_command_clearCompletion (s := { s with agenda := rest }) (decodeCommand_not_mem hdecode) hsrst hphase

/-- Outside `IDLE` every word but that of `SRST` is lost, a defined one or an illegal one. -/
theorem step_command_dropped {s : State} {v : Word} {rest : List Turn} (hagenda : s.agenda = .host (.regWrite 1 v) :: rest)
    (hv : v ≠ 0x00000004#32) (hphase : s.phase ≠ .idle) : step s = .next { s with agenda := rest } := by
  rcases decodeCommand_total v with ⟨i, hdecode⟩ | hillegal
  · have hsrst : i ≠ .srst := by
      rintro rfl
      obtain ⟨-, hword⟩ := decodeCommand_eq_instr_iff.1 hdecode
      exact hv (Encoding.cmdw.inj hword).symm
    rw [step_command hagenda hdecode]
    exact exec_command_dropped (s := { s with agenda := rest }) (decodeCommand_not_mem hdecode) hsrst hphase
  · rw [step_illegalCommand hagenda hillegal]
    exact presentIllegal_dropped (s := { s with agenda := rest }) v hphase

/-- Settles O18: `SRST` runs, other words are dropped outside `IDLE`, and in `IDLE` the word's row of the table runs. -/
theorem commandWordPresented : Obligations.CommandWordPresented := by
  intro s v rest hagenda
  refine ⟨?srst, step_command_dropped hagenda, fun hphase => ⟨?unpack, ?demosaic, fun hconvert => ?convert,
    fun hunpack hdemosaic hsrst hconvert => ?illegal⟩⟩
  case srst =>
    rintro rfl
    exact step_command hagenda rfl
  case unpack =>
    rintro rfl
    exact step_command_idle hagenda rfl (by decide) hphase
  case demosaic =>
    rintro rfl
    exact step_command_idle hagenda rfl (by decide) hphase
  case convert =>
    rw [← cmdArg_eq]
    exact step_command_idle hagenda (decodeCommand_convert hconvert) Instr.noConfusion hphase
  case illegal =>
    rw [step_illegalCommand hagenda ((decodeCommand_eq_illegal_iff v).2 ⟨hsrst, hunpack, hdemosaic, hconvert⟩)]
    exact presentIllegal_idle (s := { s with agenda := rest }) v hphase

/-! The start checks in their order, one equation for each outcome (R122 to R124, R238). -/

/-- A start fault of an accepted command leaves the record of R239. -/
theorem startFault_clearCompletion (f : FaultCode) (v : Word) (s : State) :
    s.clearCompletion.startFault f v = s.haltedBy f v := by
  rw [State.startFault, State.raise, BitVec.ofNat_toNat, BitVec.setWidth_eq]
  rfl

section Unpack
variable {s : State} (v : Word)

theorem startUnpack_size (hsize : s.w = 0 ∨ s.h = 0) : startUnpack v s = s.startFault .argCfg v := if_pos hsize

theorem startUnpack_depth (hw : s.w ≠ 0) (hh : s.h ≠ 0) (hdepth : s.d ∉ Config.legalDepths) :
    startUnpack v s = s.startFault .argCfg v := by
  rw [startUnpack, if_neg (not_or.2 ⟨hw, hh⟩), if_pos hdepth]

theorem startUnpack_alloc (hw : s.w ≠ 0) (hh : s.h ≠ 0) (hdepth : s.d ∈ Config.legalDepths)
    (hfull : s.caps.raw < s.rawlen ∨ s.caps.plane < s.npix) : startUnpack v s = s.startFault .alloc v := by
  rw [startUnpack, if_neg (not_or.2 ⟨hw, hh⟩), if_neg (not_not.2 hdepth), if_pos hfull]

theorem startUnpack_shortRead (hw : s.w ≠ 0) (hh : s.h ≠ 0) (hdepth : s.d ∈ Config.legalDepths)
    (hraw : s.rawlen ≤ s.caps.raw) (hplane : s.npix ≤ s.caps.plane) (hshort : s.rawLen.toNat < s.rawlen) :
    startUnpack v s = s.startFault .shortRead v := by
  rw [startUnpack, if_neg (not_or.2 ⟨hw, hh⟩), if_neg (not_not.2 hdepth), if_neg (not_or.2 ⟨hraw.not_gt, hplane.not_gt⟩),
    if_pos hshort]

end Unpack

section Demosaic
variable {s : State} (v : Word)

theorem startDemosaic_size (hsize : s.w = 0 ∨ s.h = 0) : startDemosaic v s = s.startFault .argCfg v := if_pos hsize

theorem startDemosaic_alloc (hw : s.w ≠ 0) (hh : s.h ≠ 0) (hfull : s.caps.plane < s.npix ∨ s.caps.rgb < s.rgblen) :
    startDemosaic v s = s.startFault .alloc v := by
  rw [startDemosaic, if_neg (not_or.2 ⟨hw, hh⟩), if_pos hfull]

/-- With its checks passing `DEMOSAIC` looks at the pattern, and only with `BGGR` starts its phase (R123). -/
theorem startDemosaic_pattern (hw : s.w ≠ 0) (hh : s.h ≠ 0) (hplane : s.npix ≤ s.caps.plane)
    (hrgb : s.rgblen ≤ s.caps.rgb) :
    startDemosaic v s =
      if s.pattern ≠ 0#2 then { s with pix := 0#32, patnop := true, done := true }
      else { s with pix := 0#32, phase := .demosaic } := by
  rw [startDemosaic, if_neg (not_or.2 ⟨hw, hh⟩), if_neg (not_or.2 ⟨hplane.not_gt, hrgb.not_gt⟩)]

end Demosaic

section Convert
variable {s : State} (v : Word)

/-- The checks of `CONVERT 0` are made after its overwrite of depth and pattern (R124). -/
theorem startConversion_eq :
    startConversion v s =
      if s.w = 0 ∨ s.h = 0 then s.fixConversion.startFault .argCfg v
      else if s.caps.raw < frameBytes s.npix 10 ∨ s.caps.plane < s.npix ∨ s.caps.rgb < s.rgblen then
        s.fixConversion.startFault .alloc v
      else if s.rawLen.toNat < frameBytes s.npix 10 then s.fixConversion.startFault .shortRead v
      else { s.fixConversion with chain := true, pix := 0#32, phase := .unpack } := rfl

theorem startConvert_type {c : Nat} (hc : c ≠ 0) : startConvert c v s = s.startFault .argCmd v := if_neg hc

theorem startConvert_size (hsize : s.w = 0 ∨ s.h = 0) :
    startConvert 0 v s = s.fixConversion.startFault .argCfg v := if_pos hsize

theorem startConvert_alloc (hw : s.w ≠ 0) (hh : s.h ≠ 0)
    (hfull : s.caps.raw < frameBytes s.npix 10 ∨ s.caps.plane < s.npix ∨ s.caps.rgb < s.rgblen) :
    startConvert 0 v s = s.fixConversion.startFault .alloc v := by
  rw [startConvert, if_pos rfl, startConversion_eq, if_neg (not_or.2 ⟨hw, hh⟩), if_pos hfull]

variable (hw : s.w ≠ 0) (hh : s.h ≠ 0) (hraw : frameBytes s.npix 10 ≤ s.caps.raw) (hplane : s.npix ≤ s.caps.plane)
  (hrgb : s.rgblen ≤ s.caps.rgb)

include hw hh hraw hplane hrgb

theorem startConvert_fits :
    startConvert 0 v s =
      if s.rawLen.toNat < frameBytes s.npix 10 then s.fixConversion.startFault .shortRead v
      else { s.fixConversion with chain := true, pix := 0#32, phase := .unpack } := by
  rw [startConvert, if_pos rfl, startConversion_eq, if_neg (not_or.2 ⟨hw, hh⟩),
    if_neg (not_or.2 ⟨hraw.not_gt, not_or.2 ⟨hplane.not_gt, hrgb.not_gt⟩⟩)]

theorem startConvert_shortRead (hshort : s.rawLen.toNat < frameBytes s.npix 10) :
    startConvert 0 v s = s.fixConversion.startFault .shortRead v := by
  rw [startConvert_fits v hw hh hraw hplane hrgb, if_pos hshort]

theorem startConvert_starts (hlen : frameBytes s.npix 10 ≤ s.rawLen.toNat) :
    startConvert 0 v s = { s.fixConversion with chain := true, pix := 0#32, phase := .unpack } := by
  rw [startConvert_fits v hw hh hraw hplane hrgb, if_neg hlen.not_gt]

end Convert

/-! The commands in `IDLE`. -/

/-- The word of `CONVERT` carries the type above `OP` (R91, R92). -/
theorem commandWord_convert {c : Nat} (hc : c < 256) : commandWord (.convert c) = BitVec.ofNat 32 (3 + 256 * c) := by
  apply BitVec.eq_of_toNat_eq
  rw [commandWord, encode, toNat_convertWord hc, BitVec.toNat_ofNat, Nat.mod_eq_of_lt (by omega), Nat.add_comm]

/-- A command that is accepted and starts by a fault halts. -/
theorem exec_unpack_halts {s : State} {f : FaultCode} (hphase : s.phase = .idle)
    (hstart : startUnpack 1#32 s.clearCompletion = s.clearCompletion.startFault f 1#32) :
    exec .unpack s = .next (s.haltedBy f 1#32) :=
  congrArg Host.Outcome.next <| (State.present_idle hphase _).trans <| hstart.trans <| startFault_clearCompletion ..

theorem exec_demosaic_halts {s : State} {f : FaultCode} (hphase : s.phase = .idle)
    (hstart : startDemosaic 2#32 s.clearCompletion = s.clearCompletion.startFault f 2#32) :
    exec .demosaic s = .next (s.haltedBy f 2#32) :=
  congrArg Host.Outcome.next <| (State.present_idle hphase _).trans <| hstart.trans <| startFault_clearCompletion ..

/-- A type other than 0 is refused before the overwrite of depth and pattern. -/
theorem exec_convert_refused {s : State} {c : Nat} (hphase : s.phase = .idle) (hc : c ≠ 0) (hbyte : c < 256) :
    exec (.convert c) s = .next (s.haltedBy .argCmd (BitVec.ofNat 32 (3 + 256 * c))) := by
  rw [← commandWord_convert hbyte]
  exact congrArg Host.Outcome.next <| (State.present_idle hphase _).trans <|
    (startConvert_type _ hc).trans <| startFault_clearCompletion ..

/-- A fault of `CONVERT 0` leaves that overwrite in place (R239). -/
theorem exec_convert_halts {s : State} {f : FaultCode} (hphase : s.phase = .idle)
    (hstart : startConvert 0 3#32 s.clearCompletion = s.clearCompletion.fixConversion.startFault f 3#32) :
    exec (.convert 0) s = .next (s.fixConversion.haltedBy f 3#32) :=
  congrArg Host.Outcome.next <| (State.present_idle hphase _).trans <| hstart.trans <|
    startFault_clearCompletion f 3#32 s.fixConversion

/-- `DEMOSAIC` with its checks passing (R123). -/
theorem exec_demosaic_checked {s : State} (hphase : s.phase = .idle) (hw : s.w ≠ 0) (hh : s.h ≠ 0)
    (hplane : s.npix ≤ s.caps.plane) (hrgb : s.rgblen ≤ s.caps.rgb) :
    exec .demosaic s = .next
      (if s.pattern ≠ 0#2 then { s with done := true, patnop := true, pix := 0#32 }
       else { s with done := false, patnop := false, pix := 0#32, phase := .demosaic }) :=
  congrArg Host.Outcome.next <| (State.present_idle hphase _).trans <|
    startDemosaic_pattern (s := s.clearCompletion) _ hw hh hplane hrgb

/-- Settles O19. -/
theorem unpackStarts : Obligations.UnpackStarts :=
  fun _ hphase hw hh hdepth hraw hplane hlen => execUnpack_accepted hphase hw hh ⟨hdepth, hraw, hplane⟩ hlen

/-- Settles O20: after the other checks the pattern decides between the phase and the no-op. -/
theorem demosaicStarts : Obligations.DemosaicStarts := by
  intro s hphase hw hh hplane hrgb
  rw [exec_demosaic_checked hphase hw hh hplane hrgb]
  exact ⟨fun hpattern => congrArg _ (if_neg (not_not.2 hpattern)), fun hpattern => congrArg _ (if_pos hpattern)⟩

/-- Settles O21. -/
theorem convertStarts : Obligations.ConvertStarts :=
  fun s hphase hw hh hraw hplane hrgb hlen => congrArg Host.Outcome.next <| (State.present_idle hphase _).trans <|
    startConvert_starts (s := s.clearCompletion) _ hw hh hraw hplane hrgb hlen

/-- Settles O22: each clause is the equation of the check that fails. -/
theorem startChecksInOrder : Obligations.StartChecksInOrder := by
  intro s hphase
  refine ⟨fun hsize => ⟨?_, ?_, ?_⟩, fun c => exec_convert_refused hphase, fun hw hh => ⟨?_, ?_, ?_, ?_, ?_, ?_⟩⟩
  · exact exec_unpack_halts hphase (startUnpack_size _ hsize)
  · exact exec_demosaic_halts hphase (startDemosaic_size _ hsize)
  · exact exec_convert_halts hphase (startConvert_size _ hsize)
  · exact fun hdepth => exec_unpack_halts hphase (startUnpack_depth _ hw hh hdepth)
  · exact fun hdepth hfull => exec_unpack_halts hphase (startUnpack_alloc _ hw hh hdepth hfull)
  · exact fun hdepth hraw hplane hshort =>
      exec_unpack_halts hphase (startUnpack_shortRead _ hw hh hdepth hraw hplane hshort)
  · exact fun hfull => exec_demosaic_halts hphase (startDemosaic_alloc _ hw hh hfull)
  · exact fun hfull => exec_convert_halts hphase (startConvert_alloc _ hw hh hfull)
  · exact fun hraw hplane hrgb hshort =>
      exec_convert_halts hphase (startConvert_shortRead _ hw hh hraw hplane hrgb hshort)

end Sys2Proof.Machine
end

section
/-! Progress (spec/40_commands.md R128 to R130): each step of a busy block leaves fewer pixels to process, so a run ends. -/

namespace Sys2Proof.Machine

open Safe

/-! The pixels still to process, by phase. -/

theorem Safe.remaining_unpack {s : State} (hphase : s.phase = .unpack) :
    remaining s = s.npix - s.p + (if s.chain then s.npix else 0) := by
  rw [remaining, hphase]

theorem Safe.remaining_demosaic {s : State} (hphase : s.phase = .demosaic) : remaining s = s.npix - s.p := by
  rw [remaining, hphase]

theorem Safe.remaining_of_not_busy {s : State} (hfree : s.busy = false) : remaining s = 0 := by
  rcases s.busy_eq_false_iff.1 hfree with hphase | hphase <;> rw [remaining, hphase]

theorem Safe.remaining_pos {s : State} (hbusy : s.busy = true) (hp : s.p < s.npix) : 0 < remaining s := by
  rcases s.busy_iff.1 hbusy with hphase | hphase
  · rw [remaining_unpack hphase]
    omega
  · rw [remaining_demosaic hphase]
    omega

/-! The step of a busy block. -/

/-- A step makes progress: the next pixel, or another phase, and less left to do. -/
def Progress (s t : State) : Prop := (t.p = s.p + 1 ∨ t.phase ≠ s.phase) ∧ remaining t < remaining s

theorem Progress.nextPixel {s : State} (hbusy : s.busy = true) (hp : s.p < s.npix) :
    Progress s { s with pix := s.pix + 1#32 } := by
  have hpix := State.toNat_pix_succ hp
  refine ⟨.inl hpix, ?_⟩
  rcases s.busy_iff.1 hbusy with hphase | hphase
  · have hafter : remaining { s with pix := s.pix + 1#32 }
        = s.npix - (s.pix + 1#32).toNat + (if s.chain then s.npix else 0) := remaining_unpack hphase
    rw [hafter, remaining_unpack hphase, hpix]
    omega
  · have hafter : remaining { s with pix := s.pix + 1#32 } = s.npix - (s.pix + 1#32).toNat := remaining_demosaic hphase
    rw [hafter, remaining_demosaic hphase, hpix]
    omega

/-- The second phase of a conversion has the whole frame to do, which the first phase counted beside its own pixels. -/
theorem Progress.chained {s : State} (hphase : s.phase = .unpack) (hchain : s.chain = true) (hp : s.p < s.npix) :
    Progress s { s with chain := false, pix := 0#32, phase := .demosaic } := by
  have hafter : remaining { s with chain := false, pix := 0#32, phase := .demosaic } = s.npix - 0 := rfl
  refine ⟨.inr (by simp [hphase]), ?_⟩
  rw [hafter, remaining_unpack hphase, if_pos hchain]
  omega

/-- The end of a run, or a fault. -/
theorem Progress.stopped {s t : State} (hbusy : s.busy = true) (hp : s.p < s.npix) (hfree : t.busy = false) :
    Progress s t := by
  refine ⟨.inr fun hsame => ?_, ?_⟩
  · have hbusy' : t.busy = true := by rwa [State.busy, hsame]
    exact absurd (hfree.symm.trans hbusy') (by decide)
  · rw [remaining_of_not_busy hfree]
    exact remaining_pos hbusy hp

theorem State.endUnpackStep_progress {s : State} (hphase : s.phase = .unpack) (hp : s.p < s.npix) :
    Progress s s.endUnpackStep := by
  have hbusy := s.busy_iff.2 (.inl hphase)
  rcases State.endUnpackStep_cases hp with ⟨-, hend⟩ | ⟨hchain, hend⟩ | ⟨-, hend⟩ <;> rw [hend]
  · exact .nextPixel hbusy hp
  · exact .chained hphase hchain hp
  · exact .stopped hbusy hp rfl

theorem State.endDemosaicStep_progress {s : State} (hphase : s.phase = .demosaic) (hp : s.p < s.npix) :
    Progress s s.endDemosaicStep := by
  have hbusy := s.busy_iff.2 (.inr hphase)
  rcases State.endDemosaicStep_cases hp with ⟨-, hend⟩ | hend <;> rw [hend]
  · exact .nextPixel hbusy hp
  · exact .stopped hbusy hp rfl

/-- The byte that the step stores is neither the counter nor the phase. -/
theorem UnpackNext.progress {s t : State} (h : UnpackNext s t) (hphase : s.phase = .unpack) (hp : s.p < s.npix) :
    Progress s t := by
  obtain ⟨-, out, rfl⟩ := h
  exact State.endUnpackStep_progress (s := s.setByte .plane s.p out) hphase hp

theorem DemosaicNext.progress {s t : State} (h : DemosaicNext s t) (hphase : s.phase = .demosaic) (hp : s.p < s.npix) :
    Progress s t := by
  rcases h with ⟨-, b, g, r, rfl⟩ | ⟨k, -, rfl⟩
  · exact State.endDemosaicStep_progress (s := s.setTriple b g r) hphase hp
  · exact .stopped (s.busy_iff.2 (.inr hphase)) hp rfl

theorem UnpackNext.agenda_eq {s t : State} (h : UnpackNext s t) : t.agenda = s.agenda := by
  obtain ⟨-, out, rfl⟩ := h
  rw [State.endUnpackStep_agenda, State.setByte_agenda]

theorem DemosaicNext.agenda_eq {s t : State} (h : DemosaicNext s t) : t.agenda = s.agenda := by
  rcases h with ⟨-, b, g, r, rfl⟩ | ⟨k, -, rfl⟩
  · simp [State.setTriple]
  · rw [State.raise_agenda]

/-- With no access of the host waiting, a busy block takes a step, goes on, and leaves none waiting. -/
theorem busy_step {s : State} (hs : Invariant s) (hbusy : s.busy = true) (hagenda : s.agenda = []) :
    ∃ t, step s = .next t ∧ Progress s t ∧ t.agenda = [] := by
  obtain ⟨t, hstep⟩ := block_step_answers hs (.inl hagenda)
  have hrun {i : Instr} (hwork : blockWork s = .run i) : exec i s = .next t := by
    rw [← hstep, step_of_blockWork (.inl hagenda) hwork, State.popTurn_of_nil hagenda]
  obtain ⟨-, -, -, hunpack, hdemosaic⟩ := hs
  refine ⟨t, hstep, ?_⟩
  rcases s.busy_iff.1 hbusy with hphase | hphase
  · obtain ⟨i, hi, hwork⟩ := blockWork_unpack hphase
    have hnext : UnpackNext s t := exec_unpackKind hi (hrun hwork)
    exact ⟨hnext.progress hphase (hunpack hphase).1, hnext.agenda_eq.trans hagenda⟩
  · obtain ⟨i, hi, hwork⟩ := blockWork_demosaic hphase
    have hnext : DemosaicNext s t := exec_demosaicKind hi (hrun hwork)
    exact ⟨hnext.progress hphase (hdemosaic hphase).1, hnext.agenda_eq.trans hagenda⟩

/-- Settles O41. -/
theorem blockStepMakesProgress : Obligations.BlockStepMakesProgress := by
  intro s hs hbusy hagenda
  obtain ⟨t, hstep, ⟨hmoves, hless⟩, -⟩ := busy_step hs hbusy hagenda
  exact ⟨t, hstep, hmoves, hless⟩

/-- Settles O42, by induction on the pixels still to process: a step leaves fewer of them, and a block with none left is
not busy. -/
theorem everyRunEnds : Obligations.EveryRunEnds := by
  intro s hs hbusy hagenda
  induction hleft : remaining s using Nat.strong_induction_on generalizing s with
  | _ left ih =>
    obtain ⟨t, hstep, ⟨-, hless⟩, hnone⟩ := busy_step hs hbusy hagenda
    have ht : Invariant t := stepKeepsTheInvariant s t hs hstep
    cases hrunning : t.busy with
    | false => exact ⟨1, t, by omega, runSteps_one hstep, hrunning, ht⟩
    | true =>
      obtain ⟨n, u, hn, hrun, hend⟩ := ih (remaining t) (hleft ▸ hless) t ht hrunning hnone rfl
      exact ⟨n + 1, u, by omega, (runSteps_succ hstep n).trans hrun, hend⟩

end Sys2Proof.Machine
end

section
/-! What a whole run of `UNPACK` leaves (spec/40_commands.md R122, R127, R128): the plane unpacked and everything else as it
was. -/

namespace Sys2Proof.Machine

/-- A run writes no byte of the plane past the pixels it has done. -/
theorem State.unpackedPlane_read_past (s : State) {i n : Nat} (hi : n ≤ i) :
    (s.unpackedPlane n).read i = s.plane.read i := by
  induction n with
  | zero => rfl
  | succ n ih => rw [State.unpackedPlane, Memory.read_write_other _ _ _ _ (by omega), ih (by omega)]

/-- And no byte of another space. -/
theorem State.unpackedTo_keepsMemoryBut (s : State) (n : Nat) : KeepsMemoryBut .plane 0 n s (s.unpackedTo n) := by
  intro sp k hother
  cases sp with
  | raw | rgb => rfl
  | plane =>
    have hread : ((s.unpackedTo n).mem .plane).read k = (s.mem .plane).read k :=
      s.unpackedPlane_read_past (by simpa using hother)
    rw [State.byteAt, hread]
    rfl

/-- Settles O49: the run is `runSteps_unpack`, which stores the closed form of every sample. -/
theorem unpackRunLeavesThePlane : Obligations.UnpackRunLeavesThePlane := by
  intro s hphase hagenda hw hh hdepth hraw hplane hlen
  refine ⟨_, runSteps_unpack hphase hagenda hw hh ⟨hdepth, hraw, hplane⟩ hlen, rfl, rfl, rfl, Nat.mod_eq_of_lt s.npix_lt,
    fun i hi => State.unpackedTo_byteAt_plane _ hi, fun sp k hother => ?_, rfl, rfl, rfl, rfl, rfl, rfl⟩
  have hkept := State.unpackedTo_keepsMemoryBut (State.unpackStart { s with agenda := [] }) s.npix sp k hother
  cases sp <;> exact hkept

end Sys2Proof.Machine
end

section
/-! The demosaic step kinds against the closed form of a pixel (spec/42_demosaic_steps.md R170 to R182): where the largest
index of the pixel is in range, the kind that the selector names stores `demosaic_pixel` of pixel `PIX` and ends the step. -/

namespace Sys2Proof.Machine

/-! The plane indices relative to the current pixel (R182). -/

/-- The pixel `p` from its line and column. -/
theorem mul_line_add_row (w p : Nat) : w * (p / w) + (p % w + 1) = p + 1 := by
  rw [← Nat.add_assoc, Nat.div_add_mod]

/-- One line further down. -/
theorem mul_next_line_add_row (w p : Nat) : w * (p / w + 1) + (p % w + 1) = p + w + 1 := by
  rw [Nat.mul_add_one, Nat.add_right_comm, mul_line_add_row]
  omega

/-- One line further up, where there is one. -/
theorem mul_previous_line_add_row {w p : Nat} (hline : p / w ≠ 0) : w * (p / w - 1) + (p % w + 1) = p - w + 1 := by
  obtain ⟨n, hn⟩ := Nat.exists_eq_succ_of_ne_zero hline
  have hpixel := mul_line_add_row w p
  rw [hn, Nat.succ_eq_add_one, Nat.mul_add_one] at hpixel
  rw [hn, Nat.succ_eq_add_one, Nat.add_sub_cancel]
  omega

theorem indices_oo (w p : Nat) :
    iBoo w (lineOf w p) (rowOf w p) = p + w + 1 ∧ iGoo w (lineOf w p) (rowOf w p) = p + 1
      ∧ iRoo w (lineOf w p) (rowOf w p) = p :=
  ⟨mul_next_line_add_row w p, mul_line_add_row w p, congrArg (· - 1) (mul_line_add_row w p)⟩

theorem indices_oe (w p : Nat) :
    iBoe w (lineOf w p) (rowOf w p) = p + w ∧ iGoe w (lineOf w p) (rowOf w p) = p
      ∧ iG2oe w (lineOf w p) (rowOf w p) = p + w - 1 ∧ iRoe w (lineOf w p) (rowOf w p) = p - 1 :=
  ⟨congrArg (· - 1) (mul_next_line_add_row w p), congrArg (· - 1) (mul_line_add_row w p),
    congrArg (· - 2) (mul_next_line_add_row w p), congrArg (· - 2) (mul_line_add_row w p)⟩

theorem indices_eo {w p : Nat} (hline : p / w ≠ 0) :
    iBeo w (lineOf w p) (rowOf w p) = p + 1 ∧ iGeo w (lineOf w p) (rowOf w p) = p
      ∧ iReo w (lineOf w p) (rowOf w p) = p - w :=
  ⟨mul_line_add_row w p, congrArg (· - 1) (mul_line_add_row w p), congrArg (· - 1) (mul_previous_line_add_row hline)⟩

theorem indices_ee {w p : Nat} (hline : p / w ≠ 0) :
    iBee w (lineOf w p) (rowOf w p) = p ∧ iGee w (lineOf w p) (rowOf w p) = p - 1
      ∧ iRee w (lineOf w p) (rowOf w p) = p - w - 1 :=
  ⟨congrArg (· - 1) (mul_line_add_row w p), congrArg (· - 2) (mul_line_add_row w p),
    congrArg (· - 2) (mul_previous_line_add_row hline)⟩

/-! The sites. -/

/-- The step kind of a site (R95). -/
def Site.kind : Site → Instr
  | .oo => .dmOO
  | .oe => .dmOE
  | .eo => .dmEO
  | .ee => .dmEE

theorem State.decode_dstepSelector_site (s : State) :
    decode (.dstep s.dstepSelector) = .instr (siteOf s.w s.p).kind := by
  rw [s.decode_dstepSelector, siteOf]
  split_ifs <;> rfl

/-- A site on an even line is not on the first line, as lines count from 1. -/
theorem line_ne_zero_of_site {w c : Nat} (hsite : siteOf w c = .eo ∨ siteOf w c = .ee) : c / w ≠ 0 := by
  intro hline
  rw [siteOf, hline, if_pos rfl] at hsite
  split_ifs at hsite <;> simp at hsite

/-! The steps. -/

/-- The start checks of `DEMOSAIC` that the memory accesses of its steps rest on (R123). -/
def DemosaicChecks (s : State) : Prop := s.npix ≤ s.caps.plane ∧ s.rgblen ≤ s.caps.rgb

/-- They hold, `PIX` is a pixel of the frame, and the largest index that its step reads is in range (R180). -/
def DemosaicFrame (s : State) : Prop := s.p < s.npix ∧ largestIndex s.w s.p < s.npix ∧ DemosaicChecks s

/-- The state after the demosaic step of pixel `PIX`, by the closed form of R182. -/
def State.demosaicedPixel (s : State) : State :=
  let x := demosaicPixel (s.byteAt .plane) s.w s.p
  (s.setTriple x.b x.g x.r).endDemosaicStep

/-- No read of a step is past the largest index. -/
theorem DemosaicFrame.withPlane {s : State} (h : DemosaicFrame s) {k : Nat} (hk : k ≤ largestIndex s.w s.p)
    (cont : Byte → Result) : withPlane k s cont = cont (s.byteAt .plane k) := by
  obtain ⟨-, hlargest, hplane, -⟩ := h
  exact withPlane_ok (hk.trans_lt hlargest) hplane

/-- The write-back of a step finds its three bytes. -/
theorem DemosaicFrame.finishDemosaic {s : State} (h : DemosaicFrame s) (b g r : Byte) :
    finishDemosaic b g r s = .next (s.setTriple b g r).endDemosaicStep := by
  obtain ⟨hp, -, -, hrgb⟩ := h
  have htriple : 3 * s.npix ≤ s.caps.rgb := hrgb
  exact finishDemosaic_ok (by omega)

theorem execDmOO_of_frame {s : State} (h : DemosaicFrame s) (hsite : siteOf s.w s.p = .oo) :
    execDmOO s = .next s.demosaicedPixel := by
  obtain ⟨hB, hG, hR⟩ := indices_oo s.w s.p
  have hlargest : largestIndex s.w s.p = s.p + s.w + 1 := by rw [largestIndex, hsite]
  simp only [execDmOO, hB, hG, hR, State.demosaicedPixel, demosaicPixel, hsite]
  rw [h.withPlane (by omega), h.withPlane (by omega), h.withPlane (by omega), h.finishDemosaic]

theorem execDmOE_of_frame {s : State} (h : DemosaicFrame s) (hsite : siteOf s.w s.p = .oe) :
    execDmOE s = .next s.demosaicedPixel := by
  obtain ⟨hB, hG, hG2, hR⟩ := indices_oe s.w s.p
  have hlargest : largestIndex s.w s.p = s.p + s.w := by rw [largestIndex, hsite]
  simp only [execDmOE, hB, hG, hG2, hR, State.demosaicedPixel, demosaicPixel, hsite]
  rw [h.withPlane (by omega), h.withPlane (by omega), h.withPlane (by omega), h.withPlane (by omega), h.finishDemosaic]

theorem execDmEO_of_frame {s : State} (h : DemosaicFrame s) (hsite : siteOf s.w s.p = .eo) :
    execDmEO s = .next s.demosaicedPixel := by
  obtain ⟨hB, hG, hR⟩ := indices_eo (line_ne_zero_of_site (.inl hsite))
  have hlargest : largestIndex s.w s.p = s.p + 1 := by rw [largestIndex, hsite]
  simp only [execDmEO, hB, hG, hR, State.demosaicedPixel, demosaicPixel, hsite]
  rw [h.withPlane (by omega), h.withPlane (by omega), h.withPlane (by omega), h.finishDemosaic]

theorem execDmEE_of_frame {s : State} (h : DemosaicFrame s) (hsite : siteOf s.w s.p = .ee) :
    execDmEE s = .next s.demosaicedPixel := by
  obtain ⟨hB, hG, hR⟩ := indices_ee (line_ne_zero_of_site (.inr hsite))
  have hlargest : largestIndex s.w s.p = s.p := by rw [largestIndex, hsite]
  simp only [execDmEE, hB, hG, hR, State.demosaicedPixel, demosaicPixel, hsite]
  rw [h.withPlane (by omega), h.withPlane (by omega), h.withPlane (by omega), h.finishDemosaic]

/-- The kind that the selector names stores the pixel of R182 and ends the step. -/
theorem exec_of_dstepSelector {s : State} {i : Instr} (h : DemosaicFrame s)
    (hi : decode (.dstep s.dstepSelector) = .instr i) : exec i s = .next s.demosaicedPixel := by
  obtain rfl := Decoded.instr.inj (s.decode_dstepSelector_site.symm.trans hi)
  cases hsite : siteOf s.w s.p with
  | oo => exact execDmOO_of_frame h hsite
  | oe => exact execDmOE_of_frame h hsite
  | eo => exact execDmEO_of_frame h hsite
  | ee => exact execDmEE_of_frame h hsite

/-- In the demosaic phase the block's step stores the triple of pixel `PIX`. -/
theorem step_demosaicedPixel {s : State} (hturn : s.agenda = [] ∨ ∃ rest, s.agenda = .block :: rest)
    (hphase : s.phase = .demosaic) (h : DemosaicFrame s) : step s = .next s.popTurn.demosaicedPixel := by
  have hdecode := s.decode_dstepSelector_site
  have hwork : blockWork s = .run (siteOf s.w s.p).kind := by simp only [blockWork, hphase, selectorWork, hdecode]
  rw [step_of_blockWork hturn hwork]
  exact exec_of_dstepSelector (s := s.popTurn) h hdecode

/-! The frames in which every step stays in range, and what a pixel depends on. -/

/-- With even dimensions every pixel of the frame has the line below and the column to the right that its step reads
(R180 (b)). -/
theorem largestIndex_lt_of_even {w h p : Nat} (hw : w % 2 = 0) (hh : h % 2 = 0) (hp : p < w * h) :
    largestIndex w p < w * h := by
  have hpos : 0 < w := Nat.pos_of_ne_zero fun hzero => by simp [hzero] at hp
  have hcolumn : p % w < w := Nat.mod_lt p hpos
  have hline : p / w < h := Nat.div_lt_of_lt_mul hp
  have hpixel := Nat.div_add_mod p w
  have hbelow : w * (p / w) + w ≤ w * h := Nat.mul_add_one w _ ▸ Nat.mul_le_mul_left w hline
  have htwoBelow (heven : p / w % 2 = 0) : w * (p / w) + w + w ≤ w * h := by
    have htwo : p / w + 1 + 1 ≤ h := by omega
    calc w * (p / w) + w + w = w * (p / w + 1 + 1) := by ring
      _ ≤ w * h := Nat.mul_le_mul_left w htwo
  unfold largestIndex siteOf
  split_ifs with hodd hleft hleft
  · have htwo := htwoBelow hodd
    show p + w + 1 < w * h
    omega
  · have htwo := htwoBelow hodd
    show p + w < w * h
    omega
  · show p + 1 < w * h
    omega
  · exact hp

/-- A pixel depends on the plane up to its largest index alone. -/
theorem demosaicPixel_congr {plane plane' : Nat → Byte} {w c : Nat}
    (h : ∀ i ≤ largestIndex w c, plane i = plane' i) : demosaicPixel plane w c = demosaicPixel plane' w c := by
  unfold demosaicPixel
  unfold largestIndex at h
  cases hsite : siteOf w c <;> simp only [hsite] at h ⊢
  case oo => rw [h _ le_rfl, h (c + 1) (by omega), h c (by omega)]
  case oe => rw [h _ le_rfl, h c (by omega), h (c + w - 1) (by omega), h (c - 1) (by omega)]
  case eo => rw [h _ le_rfl, h c (by omega), h (c - w) (by omega)]
  case ee => rw [h _ le_rfl, h (c - 1) (by omega), h (c - w - 1) (by omega)]

end Sys2Proof.Machine
end

section
/-! Whole runs of `DEMOSAIC` and of `CONVERT 0` over an even frame (spec/40_commands.md R123, R124, R127 to R129): the
acceptance of the command, then one step for each pixel of each phase. -/

namespace Sys2Proof.Machine

/-! The bytes of a triple (spec/20_memory.md R66). -/

/-- The triple `x` of pixel `p` stored, blue first. -/
def Memory.writeTriple (m : Memory) (p : Nat) (x : Triple) : Memory :=
  ((m.write (3 * p) x.b).write (3 * p + 1) x.g).write (3 * p + 2) x.r

theorem State.setTriple_eq (s : State) (x : Triple) :
    s.setTriple x.b x.g x.r = { s with rgb := s.rgb.writeTriple s.p x } := rfl

theorem Memory.read_writeTriple_other (m : Memory) {p k : Nat} (x : Triple) (h : k < 3 * p ∨ 3 * p + 3 ≤ k) :
    (m.writeTriple p x).read k = m.read k := by
  rw [Memory.writeTriple, Memory.read_write_other _ _ _ _ (by omega), Memory.read_write_other _ _ _ _ (by omega),
    Memory.read_write_other _ _ _ _ (by omega)]

theorem Memory.read_writeTriple (m : Memory) (p : Nat) (x : Triple) :
    (m.writeTriple p x).read (3 * p) = some x.b ∧ (m.writeTriple p x).read (3 * p + 1) = some x.g
      ∧ (m.writeTriple p x).read (3 * p + 2) = some x.r := by
  refine ⟨?blue, ?green, Memory.read_write_same ..⟩
  case blue =>
    rw [Memory.writeTriple, Memory.read_write_other _ _ _ _ (by omega), Memory.read_write_other _ _ _ _ (by omega),
      Memory.read_write_same]
  case green => rw [Memory.writeTriple, Memory.read_write_other _ _ _ _ (by omega), Memory.read_write_same]

/-- The triple stored is the triple read. -/
theorem State.tripleAt_of_writeTriple {s : State} {m : Memory} {p : Nat} {x : Triple} (h : s.rgb = m.writeTriple p x) :
    s.tripleAt p = x := by
  obtain ⟨hblue, hgreen, hred⟩ := m.read_writeTriple p x
  simp only [State.tripleAt, State.byteAt, State.mem, h, hblue, hgreen, hred]

/-! The demosaic phase. -/

/-- The RGB buffer once the first `n` pixels of the frame are written. -/
def State.demosaicedRgb (s : State) : Nat → Memory
  | 0 => s.rgb
  | n + 1 => (s.demosaicedRgb n).writeTriple n (demosaicPixel (s.byteAt .plane) s.w n)

/-- A run of a demosaic phase that started in `s`, before the step of pixel `n`. -/
def State.demosaicedTo (s : State) (n : Nat) : State :=
  { s with rgb := s.demosaicedRgb n, pix := BitVec.ofNat 32 n }

/-- A step of the run writes the triple of its pixel alone. -/
theorem State.demosaicedTo_succ_byteAt (s : State) {n k : Nat} {sp : Space}
    (hother : sp ≠ .rgb ∨ k < 3 * n ∨ 3 * n + 3 ≤ k) :
    (s.demosaicedTo (n + 1)).byteAt sp k = (s.demosaicedTo n).byteAt sp k := by
  cases sp with
  | raw | plane => rfl
  | rgb =>
    have hread : ((s.demosaicedTo (n + 1)).mem .rgb).read k = ((s.demosaicedTo n).mem .rgb).read k :=
      Memory.read_writeTriple_other _ _ (by simpa using hother)
    rw [State.byteAt, hread]
    rfl

theorem State.demosaicedTo_keepsMemoryBut (s : State) (n : Nat) : KeepsMemoryBut .rgb 0 (3 * n) s (s.demosaicedTo n) := by
  intro sp k hother
  induction n with
  | zero => cases sp <;> rfl
  | succ n ih =>
    rw [State.demosaicedTo_succ_byteAt s (hother.imp_right fun h => by omega), ih (hother.imp_right fun h => by omega)]

/-- Each pixel of a run is the closed form of R182, and a later pixel leaves it alone. -/
theorem State.demosaicedTo_tripleAt (s : State) {p n : Nat} (hp : p < n) :
    (s.demosaicedTo n).tripleAt p = demosaicPixel (s.byteAt .plane) s.w p := by
  induction n with
  | zero => omega
  | succ n ih =>
    rcases Nat.eq_or_lt_of_le (Nat.le_of_lt_succ hp) with rfl | hlt
    · exact State.tripleAt_of_writeTriple rfl
    · rw [← ih hlt, State.tripleAt, State.demosaicedTo_succ_byteAt s (by omega),
        State.demosaicedTo_succ_byteAt s (by omega), State.demosaicedTo_succ_byteAt s (by omega)]
      rfl

theorem State.demosaicedTo_p {s : State} {n : Nat} (hn : n < s.npix) : (s.demosaicedTo n).p = n :=
  Nat.mod_eq_of_lt (hn.trans s.npix_lt)

/-- The step of pixel `n` brings the run to the next pixel, or ends it at the last one (R129). -/
theorem demosaicedPixel_demosaicedTo {s : State} {n : Nat} (hn : n < s.npix) :
    (s.demosaicedTo n).demosaicedPixel =
      if n + 1 = s.npix then { s.demosaicedTo (n + 1) with phase := .idle, done := true }
      else s.demosaicedTo (n + 1) := by
  have hp : (s.demosaicedTo n).p = n := State.demosaicedTo_p hn
  have hpix : (s.demosaicedTo n).pix + 1#32 = BitVec.ofNat 32 (n + 1) := (BitVec.ofNat_add n 1).symm
  have hsucc := State.toNat_pix_succ (s := s.demosaicedTo n) (hp.symm ▸ hn)
  rw [State.demosaicedPixel, State.endDemosaicStep_eq, State.setTriple_npix, State.setTriple_eq, hsucc, hpix, hp]
  rfl

theorem step_demosaicedTo {s : State} (hphase : s.phase = .demosaic) (hagenda : s.agenda = []) (hchecks : DemosaicChecks s)
    {n : Nat} (hn : n < s.npix) (hlargest : largestIndex s.w n < s.npix) :
    step (s.demosaicedTo n) = .next (s.demosaicedTo n).demosaicedPixel := by
  have hp : (s.demosaicedTo n).p = n := State.demosaicedTo_p hn
  have hframe : DemosaicFrame (s.demosaicedTo n) := ⟨hp.symm ▸ hn, hp.symm ▸ hlargest, hchecks⟩
  rw [step_demosaicedPixel (s := s.demosaicedTo n) (.inl hagenda) hphase hframe,
    State.popTurn_of_nil (s := s.demosaicedTo n) hagenda]

/-- A run goes on as long as every pixel's largest index is in range. -/
theorem runSteps_demosaicedTo {s : State} (hphase : s.phase = .demosaic) (hagenda : s.agenda = [])
    (hchecks : DemosaicChecks s) {n : Nat} (hn : n < s.npix) (hlargest : ∀ p < n, largestIndex s.w p < s.npix) :
    runSteps n (s.demosaicedTo 0) = .next (s.demosaicedTo n) := by
  induction n with
  | zero => rfl
  | succ n ih =>
    have hbefore : n < s.npix := Nat.lt_of_succ_lt hn
    have hrun := ih hbefore fun p hp => hlargest p (Nat.lt_succ_of_lt hp)
    rw [runSteps_add hrun,
      runSteps_one (step_demosaicedTo hphase hagenda hchecks hbefore (hlargest n (Nat.lt_succ_self n))),
      demosaicedPixel_demosaicedTo hbefore, if_neg hn.ne]

theorem State.demosaicedTo_zero {s : State} (hpix : s.pix = 0#32) : s.demosaicedTo 0 = s := by
  rw [State.demosaicedTo, ← hpix]
  rfl

/-- The demosaic phase of an even frame takes `NPIX` steps and ends in `IDLE` with `DONE` set. -/
theorem runSteps_demosaicPhase {s : State} (hphase : s.phase = .demosaic) (hagenda : s.agenda = [])
    (hchecks : DemosaicChecks s) (hpix : s.pix = 0#32) (hw : s.w % 2 = 0) (hh : s.h % 2 = 0) (hsome : 0 < s.npix) :
    runSteps s.npix s = .next { s.demosaicedTo s.npix with phase := .idle, done := true } := by
  have hlargest (p : Nat) (hp : p < s.npix) : largestIndex s.w p < s.npix := largestIndex_lt_of_even hw hh hp
  obtain ⟨n, hn⟩ := Nat.exists_eq_add_of_le' hsome
  have hlast : n < s.npix := by omega
  have hrun := runSteps_demosaicedTo hphase hagenda hchecks hlast fun p hp => hlargest p (hp.trans hlast)
  rw [State.demosaicedTo_zero hpix] at hrun
  rw [hn, runSteps_add hrun, runSteps_one (step_demosaicedTo hphase hagenda hchecks hlast (hlargest n hlast)),
    demosaicedPixel_demosaicedTo hlast, if_pos hn.symm]

/-- The state that an accepted `DEMOSAIC` starts its phase in (R121, R123). -/
def State.demosaicStart (s : State) : State :=
  { s with done := false, patnop := false, pix := 0#32, phase := .demosaic }

theorem step_demosaicCommand {s : State} {rest : List Turn} (hagenda : s.agenda = .host (.regWrite 1 0x00000002#32) :: rest)
    (hphase : s.phase = .idle) (hw : s.w ≠ 0) (hh : s.h ≠ 0) (hchecks : DemosaicChecks s) (hpattern : s.pattern = 0#2) :
    step s = .next (State.demosaicStart { s with agenda := rest }) := by
  obtain ⟨hplane, hrgb⟩ := hchecks
  obtain ⟨haccept, -⟩ := demosaicStarts { s with agenda := rest } hphase hw hh hplane hrgb
  exact (step_command hagenda rfl).trans (haccept hpattern)

/-- Settles O52: the word is accepted, and the run of its phase is `runSteps_demosaicPhase`. -/
theorem demosaicRunOfAnEvenFrame : Obligations.DemosaicRunOfAnEvenFrame := by
  intro s hphase hagenda hw hh hwEven hhEven hpattern hplane hrgb
  have haccept := runSteps_one (step_demosaicCommand hagenda hphase hw hh ⟨hplane, hrgb⟩ hpattern)
  have hrun := runSteps_demosaicPhase (s := State.demosaicStart { s with agenda := [] }) rfl rfl ⟨hplane, hrgb⟩ rfl
    hwEven hhEven (State.npix_pos hw hh)
  refine ⟨_, (runSteps_add haccept s.npix).trans hrun, rfl, rfl, rfl, Nat.mod_eq_of_lt s.npix_lt,
    fun p hp => State.demosaicedTo_tripleAt _ hp, fun sp k hother => ?_, rfl, rfl, rfl, rfl, rfl, rfl⟩
  have hkept := State.demosaicedTo_keepsMemoryBut (State.demosaicStart { s with agenda := [] }) s.npix sp k hother
  cases sp <;> exact hkept

/-! The unpack phase of a conversion. -/

theorem State.unpackedTo_zero {s : State} (hpix : s.pix = 0#32) : s.unpackedTo 0 = s := by
  rw [State.unpackedTo, ← hpix]
  rfl

/-- With `CHAIN` set the unpack phase ends by starting the demosaic phase (R128). -/
theorem runSteps_chainedUnpackPhase {s : State} (hphase : s.phase = .unpack) (hagenda : s.agenda = [])
    (hchecks : UnpackChecks s) (hpix : s.pix = 0#32) (hchain : s.chain = true) (hsome : 0 < s.npix) :
    runSteps s.npix s = .next { s.unpackedTo s.npix with chain := false, pix := 0#32, phase := .demosaic } := by
  obtain ⟨n, hn⟩ := Nat.exists_eq_add_of_le' hsome
  have hlast : n < s.npix := by omega
  have hrun := runSteps_unpackedTo hphase hagenda hchecks hlast
  rw [State.unpackedTo_zero hpix] at hrun
  rw [hn, runSteps_add hrun, runSteps_one (step_unpackedTo hphase hagenda hchecks hlast), unpackPixel_unpackedTo hlast,
    if_pos hn.symm, if_pos hchain]

/-! The run of a conversion. -/

/-- The state that an accepted `CONVERT 0` starts its unpack phase in (R121, R124). -/
def State.convertStart (s : State) : State :=
  { s with
    done := false, patnop := false, bitDepth := 10#5, pattern := 0#2, chain := true, pix := 0#32, phase := .unpack }

/-- The state in which the unpack phase of a conversion leaves the demosaic phase, its plane complete (R128). -/
def State.convertHalfway (s : State) : State :=
  { s.convertStart.unpackedTo s.npix with chain := false, pix := 0#32, phase := .demosaic }

/-- The demosaic phase works on the samples at depth 10. -/
theorem State.convertHalfway_byteAt_plane (s : State) {i : Nat} (hi : i < s.npix) :
    s.convertHalfway.byteAt .plane i = BitVec.ofNat 8 (unpackSample (s.byteAt .raw) 10 i) := by
  have hsample : (s.convertHalfway.byteAt .plane i).toNat = unpackSample (s.byteAt .raw) 10 i :=
    s.convertStart.unpackedTo_byteAt_plane hi
  rw [← hsample, BitVec.ofNat_toNat, BitVec.setWidth_eq]

/-- The whole run of a conversion that the host presents as its last turn: one step for its acceptance, `NPIX` for each
of its phases. -/
theorem runSteps_convert {s : State} (hphase : s.phase = .idle) (hagenda : s.agenda = [.host (.regWrite 1 0x00000003#32)])
    (hw : s.w ≠ 0) (hh : s.h ≠ 0) (hwEven : s.w % 2 = 0) (hhEven : s.h % 2 = 0)
    (hraw : frameBytes s.npix 10 ≤ s.caps.raw) (hplane : s.npix ≤ s.caps.plane) (hrgb : s.rgblen ≤ s.caps.rgb)
    (hlen : frameBytes s.npix 10 ≤ s.rawLen.toNat) :
    let u := State.convertHalfway { s with agenda := [] }
    runSteps (1 + 2 * s.npix) s = .next { u.demosaicedTo s.npix with phase := .idle, done := true } := by
  intro u
  have hsome := State.npix_pos hw hh
  have hdepth : 10 ∈ Config.legalDepths := by decide
  have haccept : step s = .next (State.convertStart { s with agenda := [] }) :=
    (step_command hagenda rfl).trans (convertStarts { s with agenda := [] } hphase hw hh hraw hplane hrgb hlen)
  have hunpack := runSteps_chainedUnpackPhase (s := State.convertStart { s with agenda := [] }) rfl rfl
    ⟨hdepth, hraw, hplane⟩ rfl rfl hsome
  have hdemosaic := runSteps_demosaicPhase (s := u) rfl rfl ⟨hplane, hrgb⟩ rfl hwEven hhEven hsome
  rw [runSteps_add (runSteps_one haccept), Nat.two_mul]
  exact (runSteps_add hunpack s.npix).trans hdemosaic

/-- Settles O54: the second phase reads the plane that the first one left, and neither writes `RAW`. -/
theorem convertRunOfAnEvenFrame : Obligations.ConvertRunOfAnEvenFrame := by
  intro s hphase hagenda hw hh hwEven hhEven hraw hplane hrgb hlen
  refine ⟨_, runSteps_convert hphase hagenda hw hh hwEven hhEven hraw hplane hrgb hlen, rfl, rfl, rfl, rfl, rfl, rfl,
    fun i hi => ?plane, fun p hp => ?triple, fun k => rfl⟩
  case plane => exact State.unpackedTo_byteAt_plane (State.convertStart { s with agenda := [] }) hi
  case triple =>
    have hlargest : largestIndex s.w p < s.npix := largestIndex_lt_of_even hwEven hhEven hp
    have hsample (i : Nat) (hi : i ≤ largestIndex s.w p) :=
      State.convertHalfway_byteAt_plane { s with agenda := [] } (hi.trans_lt hlargest)
    exact (State.demosaicedTo_tripleAt _ hp).trans (demosaicPixel_congr hsample)

end Sys2Proof.Machine
end

section
/-! The unpack step kinds, each from the memory accesses that it makes (spec/41_unpack_steps.md R150 to R158): the byte that
it stores, the end of its step, and what it leaves alone; with the arithmetic of depths, offsets and scaling. -/

namespace Sys2Proof.Machine

/-! The scaling law (R155). -/

theorem scaled_lt {d v : Nat} (hv : v < 2 ^ d) : v * 256 / 2 ^ d < 256 := by
  rw [Nat.div_lt_iff_lt_mul (by positivity), Nat.mul_comm]
  exact Nat.mul_lt_mul_of_pos_left hv (by decide)

/-- A sample of `d` bits scales to a byte without loss of high bits. -/
theorem scale_toNat {d v : Nat} (hv : v < 2 ^ d) : (scale d v).toNat = v * 256 / 2 ^ d :=
  Nat.mod_eq_of_lt (scaled_lt hv)

/-- From depth 8 on, scaling drops the low bits. -/
theorem scaled_eq_shiftRight {d : Nat} (hd : 8 ≤ d) (v : Nat) : v * 256 / 2 ^ d = v >>> (d - 8) :=
  calc v * 2 ^ 8 / 2 ^ d = v * 2 ^ 8 / (2 ^ (d - 8) * 2 ^ 8) := by rw [← pow_add, Nat.sub_add_cancel hd]
    _ = v / 2 ^ (d - 8) := Nat.mul_div_mul_right _ _ (by positivity)
    _ = v >>> (d - 8) := (Nat.shiftRight_eq_div_pow v _).symm

/-- Up to depth 8 it appends zero bits. -/
theorem scaled_eq_shiftLeft {d : Nat} (hd : d ≤ 8) (v : Nat) : v * 256 / 2 ^ d = v <<< (8 - d) :=
  calc v * 2 ^ 8 / 2 ^ d = v * 2 ^ (8 - d) * 2 ^ d / 2 ^ d := by rw [Nat.mul_assoc, ← pow_add, Nat.sub_add_cancel hd]
    _ = v * 2 ^ (8 - d) := Nat.mul_div_cancel _ (by positivity)
    _ = v <<< (8 - d) := (Nat.shiftLeft_eq v _).symm

/-- The high 8 bits of the full-scale sample are all ones. -/
theorem fullScale_shiftRight {d : Nat} (hd : 8 ≤ d) : (2 ^ d - 1) >>> (d - 8) = 255 := by
  have hsplit : 2 ^ d = 2 ^ (d - 8) * 256 := by rw [← Nat.sub_add_cancel hd, pow_add, Nat.add_sub_cancel]; norm_num
  rw [Nat.shiftRight_eq_div_pow, hsplit, Nat.mul_sub_div 0 _ _ (by positivity), Nat.zero_div]

/-- The full-scale sample of a shallow depth is short of 256 by one unit of its last bit. -/
theorem fullScale_shiftLeft {d : Nat} (hd : d ≤ 8) : (2 ^ d - 1) <<< (8 - d) = 256 - 2 ^ (8 - d) := by
  rw [Nat.shiftLeft_eq, Nat.sub_mul, ← pow_add, Nat.add_sub_cancel' hd, Nat.one_mul]
  norm_num

/-- Settles O28: the two shift forms of the law, and the full-scale sample under each. -/
theorem scalingIsAShift : Obligations.ScalingIsAShift := by
  intro d _ v hv
  have hscale := scale_toNat hv
  refine ⟨hscale, Nat.le_of_lt_succ (scaled_lt hv), fun hd => hscale.trans (scaled_eq_shiftRight hd v),
    fun hd => hscale.trans (scaled_eq_shiftLeft hd v), ?fullScale⟩
  case fullScale =>
    rintro rfl
    refine ⟨fun hd => BitVec.eq_of_toNat_eq ?_, fun hd => ?_⟩
    · exact hscale.trans ((scaled_eq_shiftRight hd _).trans (fullScale_shiftRight hd))
    · exact hscale.trans ((scaled_eq_shiftLeft hd.le _).trans (fullScale_shiftLeft hd.le))

/-! The legal depths and the raw offsets (R150, R157). -/

/-- Every other depth has a sample that reaches into a third byte, one of its first eight. -/
theorem exists_spans_three_bytes :
    ∀ d < 32, 1 ≤ d → d ∉ Config.legalDepths → ∃ i < 8, 16 < d * i % 8 + d := by decide

/-- Settles O29: the legal depths by `shiftOf_add_le`, each other depth by a sample that does not fit two bytes. -/
theorem legalDepthsNeedNoThirdByte : Obligations.LegalDepthsNeedNoThirdByte := by
  refine fun d hd => ⟨fun hlegal => ⟨pos_of_mem_legalDepths hlegal, shiftOf_add_le hlegal⟩, fun ⟨hpos, hfit⟩ => ?_⟩
  by_contra hillegal
  obtain ⟨i, -, hthird⟩ := exists_spans_three_bytes d hd hpos hillegal
  exact (hfit i).not_gt hthird

/-- Settles O30: the last bit that a sample of the frame needs is a bit of the frame. -/
theorem rawReadsStayInsideTheFrame : Obligations.RawReadsStayInsideTheFrame := fun _ hd _ _ hi =>
  ⟨byteOff_lt_frameBytes hi (pos_of_mem_legalDepths hd), byteOff_succ_lt_frameBytes hi⟩

/-! The end of an unpack step (R128, R156). -/

theorem State.endUnpackStep_unpackStepEnd {s : State} (hp : s.p < s.npix) : UnpackStepEnd s s.endUnpackStep := by
  have hpix := State.toNat_pix_succ hp
  rw [State.endUnpackStep_eq, hpix, UnpackStepEnd]
  split_ifs with hlast hchain
  · exact ⟨rfl, rfl, rfl, rfl⟩
  · exact ⟨Bool.eq_false_iff.2 hchain, hpix.trans hlast, rfl, rfl⟩
  · exact ⟨rfl, hpix, rfl, rfl⟩

/-- The write-back changes the byte of pixel `PIX` and what R128 names, and nothing else. -/
theorem unpackStepTo_writeBack {s : State} {out : Byte} {n : Nat} (hp : s.p < s.npix) (hout : out.toNat = n) :
    UnpackStepTo n s (s.setByte .plane s.p out).endUnpackStep := by
  refine ⟨?stored, ?ended, fun sp k hother => ?memory, ?config, ?record, ?model⟩
  case stored => rw [State.endUnpackStep_byteAt, State.setByte_byteAt_same, hout]
  case ended => exact State.endUnpackStep_unpackStepEnd (s := s.setByte .plane s.p out) hp
  case memory =>
    rw [State.endUnpackStep_byteAt]
    exact s.setByte_keepsMemoryBut .plane s.p out sp k hother
  case config => simp [KeepsConfig]
  case record => simp [KeepsRecord]
  case model => simp [KeepsModel]

/-! Each step kind on the bytes that it reads. -/

theorem execUnpkCopy_eq {s : State} (hraw : s.p < s.caps.raw) (hplane : s.p < s.caps.plane) :
    execUnpkCopy s = .next (s.setByte .plane s.p (s.byteAt .raw s.p)).endUnpackStep := by
  rw [execUnpkCopy, withByte_ok hraw, finishUnpack_ok hplane]

/-- The second read is made inside the frame and suppressed past it (R151); its byte is not used (R153). -/
theorem execUnpkOne_eq {s : State} (hplane : s.p < s.caps.plane) (hfirst : byteOff s.d s.p < s.caps.raw)
    (hsecond : byteOff s.d s.p + 1 < s.rawlen → byteOff s.d s.p + 1 < s.caps.raw) :
    execUnpkOne s = .next
      (s.setByte .plane s.p (scale s.d (sampleOne s.d s.p (s.byteAt .raw (byteOff s.d s.p))))).endUnpackStep := by
  rw [execUnpkOne, withByte_ok hfirst, finishUnpack_ok hplane]
  rcases Nat.lt_or_ge (byteOff s.d s.p + 1) s.rawlen with hread | hpast
  · exact withSecondByte_ok hread (hsecond hread)
  · exact withSecondByte_past hpast

theorem execUnpkTwo_eq {s : State} (hplane : s.p < s.caps.plane) (hread : byteOff s.d s.p + 1 < s.rawlen)
    (hsecond : byteOff s.d s.p + 1 < s.caps.raw) :
    execUnpkTwo s = .next
      (s.setByte .plane s.p (scale s.d (sampleTwo s.d s.p (s.byteAt .raw (byteOff s.d s.p))
        (s.byteAt .raw (byteOff s.d s.p + 1))))).endUnpackStep := by
  rw [execUnpkTwo, withByte_ok (Nat.lt_of_succ_lt hsecond), withSecondByte_ok hread hsecond, finishUnpack_ok hplane]

/-- The field of `UNPK.ONE` as a quotient and a remainder (R153). -/
theorem sampleOne_eq (d i : Nat) (b0 : Byte) : sampleOne d i b0 = b0.toNat / 2 ^ shiftOf d i % 2 ^ d := by
  rw [sampleOne, Nat.and_two_pow_sub_one_eq_mod, Nat.shiftRight_eq_div_pow]

/-- The join of `UNPK.TWO`, low part first (R154). -/
theorem sampleTwo_eq_low_add_high (d i : Nat) (b0 b1 : Byte) :
    sampleTwo d i b0 b1
      = b0.toNat / 2 ^ shiftOf d i + b1.toNat % 2 ^ (d - (8 - shiftOf d i)) * 2 ^ (8 - shiftOf d i) := by
  rw [sampleTwo_eq, Nat.shiftRight_eq_div_pow, Nat.add_comm, Nat.mul_comm]

/-! The obligations about the step kinds. -/

/-- Settles O24: one read, and the write-back of its byte. -/
theorem unpkCopyStoresTheRawByte : Obligations.UnpkCopyStoresTheRawByte := fun _ hp hraw hplane =>
  ⟨_, execUnpkCopy_eq hraw hplane, unpackStepTo_writeBack hp rfl⟩

/-- Settles O25: the field has `D` bits, so its scaled value is a byte. -/
theorem unpkOneStoresTheScaledField : Obligations.UnpkOneStoresTheScaledField := by
  intro s hp hplane hfirst hsecond _
  refine ⟨_, execUnpkOne_eq hplane hfirst hsecond, unpackStepTo_writeBack hp ?_⟩
  have hfield := sampleOne_eq s.d s.p (s.byteAt .raw (byteOff s.d s.p))
  rw [scale_toNat (hfield ▸ Nat.mod_lt _ (by positivity)), hfield]
  rfl

/-- Settles O26: the join of the two bytes has `D` bits, so its scaled value is a byte. -/
theorem unpkTwoStoresTheJoinedSample : Obligations.UnpkTwoStoresTheJoinedSample := by
  intro s hp hplane _ hspan hread hsecond
  refine ⟨_, execUnpkTwo_eq hplane hread hsecond, unpackStepTo_writeBack hp ?_⟩
  rw [scale_toNat (sampleTwo_lt hspan _ _), sampleTwo_eq_low_add_high]
  rfl

/-- Settles O27: the selected kind stores the closed form of the sample, which fits a byte. -/
theorem unpackStepsComputeTheSample : Obligations.UnpackStepsComputeTheSample := by
  intro s i hp hd hraw hplane hi
  have hframe : UnpackFrame s := ⟨hp, hd, hraw, hplane⟩
  exact ⟨_, exec_of_ustepSelector hframe hi, unpackStepTo_writeBack hp (Nat.mod_eq_of_lt (unpackSample_lt ..))⟩

end Sys2Proof.Machine
end

section
/-! The demosaic step kinds, each from the plane reads that it makes (spec/42_demosaic_steps.md R170 to R178): the triple that
it stores or the `BOUNDS` that it takes on its first read, the end of its step, and what it leaves alone. -/

namespace Sys2Proof.Machine

/-! The green average (R176). -/

/-- The sum of two bytes halved is a byte. -/
theorem average_toNat (g1 g2 : Byte) : (average g1 g2).toNat = (g1.toNat + g2.toNat) / 2 := by
  have h1 := g1.isLt
  have h2 := g2.isLt
  exact Nat.mod_eq_of_lt (by omega)

/-- Settles O37: nine bits hold the sum of two bytes, so the sum of the widened bytes does not wrap. -/
theorem greenAverageTruncates : Obligations.GreenAverageTruncates := by
  refine fun g1 g2 => ⟨average_toNat g1 g2, BitVec.eq_of_toNat_eq ?nineBits, ?comm⟩
  case nineBits =>
    have h1 := g1.isLt
    have h2 := g2.isLt
    rw [BitVec.toNat_setWidth, average_toNat, BitVec.toNat_ushiftRight, BitVec.toNat_add, BitVec.toNat_setWidth,
      BitVec.toNat_setWidth, Nat.shiftRight_eq_div_pow]
    omega
  case comm => rw [average, average, Nat.add_comm]

/-! The end of a demosaic step and its write-back (R129, R177). -/

theorem State.endDemosaicStep_demosaicStepEnd {s : State} (hp : s.p < s.npix) : DemosaicStepEnd s s.endDemosaicStep := by
  have hpix := State.toNat_pix_succ hp
  rw [State.endDemosaicStep_eq, hpix, DemosaicStepEnd]
  split_ifs
  · exact ⟨hpix, rfl, rfl, rfl⟩
  · exact ⟨hpix, rfl, rfl, rfl⟩

theorem State.setTriple_keepsMemoryBut (s : State) (x : Triple) :
    KeepsMemoryBut .rgb (3 * s.p) 3 s (s.setTriple x.b x.g x.r) := by
  rw [State.setTriple_eq]
  intro sp k hother
  cases sp with
  | raw | plane => rfl
  | rgb =>
    have hread : (s.rgb.writeTriple s.p x).read k = s.rgb.read k :=
      Memory.read_writeTriple_other _ _ (by simpa using hother)
    simp only [State.byteAt, State.mem, hread]

/-- The write-back changes the triple of pixel `PIX` and what R129 names, and nothing else. -/
theorem demosaicStepTo_writeBack {s : State} (hp : s.p < s.npix) (x : Triple) :
    DemosaicStepTo x s (s.setTriple x.b x.g x.r).endDemosaicStep := by
  have hstored : (s.setTriple x.b x.g x.r).endDemosaicStep.tripleAt s.p = x :=
    State.tripleAt_of_writeTriple ((State.endDemosaicStep_rgb _).trans rfl)
  refine ⟨congrArg Triple.b hstored, congrArg Triple.g hstored, congrArg Triple.r hstored, ?ended,
    fun sp k hother => ?memory, ?config, ?record, ?model⟩
  case ended => exact State.endDemosaicStep_demosaicStepEnd (s := s.setTriple x.b x.g x.r) hp
  case memory =>
    rw [State.endDemosaicStep_byteAt]
    exact s.setTriple_keepsMemoryBut x sp k hother
  case config => simp [KeepsConfig, State.setTriple_eq]
  case record => simp [KeepsRecord, State.setTriple_eq]
  case model => simp [KeepsModel, State.setTriple_eq]

/-! The steps whose reads are all in range. -/

theorem finishDemosaic_stepTo {s : State} (hp : s.p < s.npix) (hrgb : s.rgblen ≤ s.caps.rgb) (b g r : Byte) :
    ∃ t, finishDemosaic b g r s = .next t ∧ DemosaicStepTo ⟨b, g, r⟩ s t := by
  have htriple : 3 * s.npix ≤ s.caps.rgb := hrgb
  exact ⟨_, finishDemosaic_ok (by omega), demosaicStepTo_writeBack hp ⟨b, g, r⟩⟩

/-! The B index is the largest index of each kind (R180). -/

theorem indices_oo_le (w line row : Nat) : iGoo w line row ≤ iBoo w line row ∧ iRoo w line row ≤ iBoo w line row := by
  have hline : w * (line - 1) ≤ w * line := Nat.mul_le_mul_left w (Nat.sub_le line 1)
  unfold iGoo iRoo iBoo
  omega

theorem indices_oe_le (w line row : Nat) :
    iGoe w line row ≤ iBoe w line row ∧ iG2oe w line row ≤ iBoe w line row ∧ iRoe w line row ≤ iBoe w line row := by
  have hline : w * (line - 1) ≤ w * line := Nat.mul_le_mul_left w (Nat.sub_le line 1)
  unfold iGoe iG2oe iRoe iBoe
  omega

theorem indices_eo_le (w line row : Nat) : iGeo w line row ≤ iBeo w line row ∧ iReo w line row ≤ iBeo w line row := by
  have hline : w * (line - 2) ≤ w * (line - 1) := Nat.mul_le_mul_left w (by omega)
  unfold iGeo iReo iBeo
  omega

theorem indices_ee_le (w line row : Nat) : iGee w line row ≤ iBee w line row ∧ iRee w line row ≤ iBee w line row := by
  have hline : w * (line - 2) ≤ w * (line - 1) := Nat.mul_le_mul_left w (by omega)
  unfold iGee iRee iBee
  omega

/-- The shape of the three kinds that do not average: the triple is the three bytes read. -/
theorem threeReads_stepTo {s : State} (hp : s.p < s.npix) (hplane : s.npix ≤ s.caps.plane) (hrgb : s.rgblen ≤ s.caps.rgb)
    {kb kg kr : Nat} (hb : kb < s.npix) (hle : kg ≤ kb ∧ kr ≤ kb) :
    ∃ t, (withPlane kb s fun b => withPlane kg s fun g => withPlane kr s fun r => finishDemosaic b g r s) = .next t
      ∧ DemosaicStepTo ⟨s.byteAt .plane kb, s.byteAt .plane kg, s.byteAt .plane kr⟩ s t := by
  obtain ⟨hg, hr⟩ := hle
  rw [withPlane_ok hb hplane, withPlane_ok (hg.trans_lt hb) hplane, withPlane_ok (hr.trans_lt hb) hplane]
  exact finishDemosaic_stepTo hp hrgb _ _ _

/-- Settles O31: the B index, one line down and one column right, is in range by hypothesis. -/
theorem dmOOWritesItsTriple : Obligations.DmOOWritesItsTriple := by
  rintro s hp hplane hrgb line row rfl rfl hb
  exact threeReads_stepTo hp hplane hrgb hb (indices_oo_le ..)

/-- Settles O32: the B index, one line down, is in range by hypothesis. -/
theorem dmOEWritesItsTriple : Obligations.DmOEWritesItsTriple := by
  rintro s hp hplane hrgb line row rfl rfl - hb
  replace hb : iBoe s.w (lineOf s.w s.p) (rowOf s.w s.p) < s.npix := hb
  obtain ⟨hg1, hg2, hr⟩ := indices_oe_le s.w (lineOf s.w s.p) (rowOf s.w s.p)
  rw [exec, execDmOE, withPlane_ok hb hplane, withPlane_ok (hg1.trans_lt hb) hplane, withPlane_ok (hg2.trans_lt hb) hplane,
    withPlane_ok (hr.trans_lt hb) hplane]
  exact finishDemosaic_stepTo hp hrgb _ _ _

/-- Settles O33: the B index, one column right, is in range by hypothesis. -/
theorem dmEOWritesItsTriple : Obligations.DmEOWritesItsTriple := by
  rintro s hp hplane hrgb line row rfl rfl - hb
  exact threeReads_stepTo hp hplane hrgb hb (indices_eo_le ..)

/-- Settles O34: the B index is that of the current pixel, which is in the frame. -/
theorem dmEEWritesItsTriple : Obligations.DmEEWritesItsTriple := by
  rintro s hp hplane hrgb line row rfl rfl - -
  have hpixel : iBee s.w (lineOf s.w s.p) (rowOf s.w s.p) = s.p := congrArg (· - 1) (mul_line_add_row s.w s.p)
  exact threeReads_stepTo hp hplane hrgb (hpixel.trans_lt hp) (indices_ee_le ..)

/-! The steps whose first read is out of range (R171, R178, R236). -/

/-- A frame is one line short of 2^32 bytes, so the index one line down and one column right fits `FADDR`. -/
theorem State.next_line_index_lt {s : State} {c : Nat} (hc : c < s.npix) : c + s.w + 1 < 2 ^ 32 := by
  have hw : s.w < 2 ^ 16 := s.width.isLt
  have hh : s.h < 2 ^ 16 := s.height.isLt
  calc c + s.w + 1 ≤ s.w * s.h + s.w := by have hlt : c < s.w * s.h := hc; omega
    _ = s.w * (s.h + 1) := (Nat.mul_add_one _ _).symm
    _ ≤ s.w * 2 ^ 16 := Nat.mul_le_mul_left _ hh
    _ < 2 ^ 16 * 2 ^ 16 := Nat.mul_lt_mul_of_pos_right hw (by decide)
    _ = 2 ^ 32 := by norm_num

/-- Settles O35: the B byte is read first, so the out-of-range index is the one recorded and nothing is written. -/
theorem demosaicStepTakesBounds : Obligations.DemosaicStepTakesBounds := by
  rintro s line row rfl rfl
  refine ⟨fun hb => withPlane_bounds hb, fun hb => withPlane_bounds hb, fun hb => withPlane_bounds hb, fun hp => ?fits⟩
  case fits =>
    rw [mul_next_line_add_row]
    exact State.next_line_index_lt hp

/-- The kind that the selector names takes `BOUNDS` where the largest index is out of range; on `DM.EE` that index is the
pixel's own. -/
theorem exec_siteKind_bounds {s : State} (hp : s.p < s.npix) (hpast : s.npix ≤ largestIndex s.w s.p) :
    exec (siteOf s.w s.p).kind s = .next (s.boundsAt (largestIndex s.w s.p)) := by
  obtain ⟨hoo, hoe, heo, -⟩ := demosaicStepTakesBounds s _ _ rfl rfl
  rw [mul_next_line_add_row] at hoo hoe
  rw [Nat.add_sub_cancel, mul_line_add_row] at heo
  unfold largestIndex at hpast ⊢
  cases hsite : siteOf s.w s.p <;> simp only [hsite] at hpast ⊢
  case oo => exact hoo hpast
  case oe => exact hoe hpast
  case eo => exact heo hpast
  case ee => omega

/-- Settles O36: in range by `exec_of_dstepSelector`, out of range by `exec_siteKind_bounds`. -/
theorem demosaicStepsComputeThePixel : Obligations.DemosaicStepsComputeThePixel := by
  intro s i hp hplane hrgb hi
  refine ⟨fun hlargest => ?inRange, fun hpast => ?outOfRange⟩
  case inRange => exact ⟨_, exec_of_dstepSelector ⟨hp, hlargest, hplane, hrgb⟩ hi, demosaicStepTo_writeBack hp _⟩
  case outOfRange =>
    obtain rfl := Decoded.instr.inj (s.decode_dstepSelector_site.symm.trans hi)
    exact exec_siteKind_bounds hp hpast

end Sys2Proof.Machine
end

section
/-! What a whole run of `DEMOSAIC` leaves, by the parities of the frame (spec/42_demosaic_steps.md R180, R181): the colours of
each cell of an even frame, and the pixel at which an odd frame faults. -/

namespace Sys2Proof.Machine

/-! The site of a pixel given by its line and column, both from 0. -/

theorem siteOf_mul_add {w line c : Nat} (hc : c < w) :
    siteOf w (w * line + c) =
      if line % 2 = 0 then (if c % 2 = 0 then .oo else .oe) else (if c % 2 = 0 then .eo else .ee) := by
  rw [siteOf, Nat.mul_add_div (by omega), Nat.mul_add_mod, Nat.div_eq_of_lt hc, Nat.mod_eq_of_lt hc, Nat.add_zero]

/-! The cells of an even frame (R181). -/

/-- The four pixels of the cell at `p` have the four sites. -/
theorem cell_sites {w x y p : Nat} (hx : x < w / 2) (hp : p = 2 * y * w + 2 * x) :
    siteOf w p = .oo ∧ siteOf w (p + 1) = .oe ∧ siteOf w (p + w) = .eo ∧ siteOf w (p + w + 1) = .ee := by
  have hupper : p = w * (2 * y) + 2 * x := by rw [hp, Nat.mul_comm w]
  have hlower : p + w = w * (2 * y + 1) + 2 * x := by rw [hupper, Nat.mul_add_one]; omega
  have hleft : 2 * x < w := by omega
  have hright : 2 * x + 1 < w := by omega
  refine ⟨?_, ?_, ?_, ?_⟩
  · rw [hupper, siteOf_mul_add hleft, if_pos (by omega), if_pos (by omega)]
  · rw [hupper, Nat.add_assoc, siteOf_mul_add hright, if_pos (by omega), if_neg (by omega)]
  · rw [hlower, siteOf_mul_add hleft, if_neg (by omega), if_pos (by omega)]
  · rw [hlower, Nat.add_assoc, siteOf_mul_add hright, if_neg (by omega), if_neg (by omega)]

/-- The lower right pixel of the cell, and with it the whole cell, is in the frame. -/
theorem cell_lt {w h x y p : Nat} (hx : x < w / 2) (hy : y < h / 2) (hp : p = 2 * y * w + 2 * x) : p + w + 1 < w * h := by
  have hlines : w * (2 * y + 2) ≤ w * h := Nat.mul_le_mul_left w (by omega)
  have hsplit : w * (2 * y + 2) = 2 * y * w + w + w := by ring
  omega

/-- The closed form on the pixels of a cell: the red of its upper left and the blue of its lower right sample, the greens
from the other two. -/
theorem demosaicPixel_cell (plane : Nat → Byte) {w x y p : Nat} (hx : x < w / 2) (hp : p = 2 * y * w + 2 * x) :
    demosaicPixel plane w p = ⟨plane (p + w + 1), plane (p + 1), plane p⟩
      ∧ demosaicPixel plane w (p + 1) = ⟨plane (p + w + 1), average (plane (p + 1)) (plane (p + w)), plane p⟩
      ∧ demosaicPixel plane w (p + w) = ⟨plane (p + w + 1), plane (p + w), plane p⟩
      ∧ demosaicPixel plane w (p + w + 1) = ⟨plane (p + w + 1), plane (p + w), plane p⟩ := by
  obtain ⟨hoo, hoe, heo, hee⟩ := cell_sites hx hp
  have hbelow : p + 1 + w = p + w + 1 := Nat.add_right_comm p 1 w
  have habove : p + w + 1 - w - 1 = p := by omega
  simp only [demosaicPixel, hoo, hoe, heo, hee, hbelow, habove, Nat.add_sub_cancel, and_self]

/-- Settles O55: the run leaves the closed form of every pixel, which `demosaicPixel_cell` reads off cell by cell. -/
theorem cellColoursOfAnEvenFrame : Obligations.CellColoursOfAnEvenFrame := by
  intro s hphase hagenda hw hh hwEven hhEven hpattern hplane hrgb
  obtain ⟨t, hrun, -, -, -, -, htriples, -⟩ :=
    demosaicRunOfAnEvenFrame s hphase hagenda hw hh hwEven hhEven hpattern hplane hrgb
  refine ⟨t, hrun, ?_⟩
  rintro x y p hx hy hp _ _ _ _ rfl rfl rfl rfl
  have hcell : p + s.w + 1 < s.npix := cell_lt hx hy hp
  rw [htriples p (by omega), htriples (p + 1) (by omega), htriples (p + s.w) (by omega), htriples _ hcell]
  exact demosaicPixel_cell _ hx hp

/-! The first pixel of an odd frame whose step reads past the plane (R180 (d)). -/

/-- Pixel `c` is the first of a frame of `n` pixels whose largest index is out of range, and `k` is that index. -/
def FirstPast (w n c k : Nat) : Prop :=
  c < n ∧ (∀ p < c, largestIndex w p < n) ∧ largestIndex w c = k ∧ n ≤ k

theorem largestIndex_le (w c : Nat) : largestIndex w c ≤ c + w + 1 := by
  unfold largestIndex
  split <;> omega

theorem largestIndex_oo {w c : Nat} (hsite : siteOf w c = .oo) : largestIndex w c = c + w + 1 := by
  rw [largestIndex, hsite]

/-- On a site of an even line, as lines count from 1, no line below is read. -/
theorem largestIndex_le_succ {w c : Nat} (hline : c / w % 2 ≠ 0) : largestIndex w c ≤ c + 1 := by
  unfold largestIndex siteOf
  rw [if_neg hline]
  split_ifs
  · exact le_rfl
  · exact Nat.le_succ c

/-- The first `m` lines, `m` even, read at most the first sample of the line after them. -/
theorem largestIndex_le_of_even_lines {w m c : Nat} (hm : m % 2 = 0) (hc : c < w * m) : largestIndex w c ≤ w * m := by
  by_cases hparity : c / w % 2 = 0
  · have hpos : 0 < w := Nat.pos_of_ne_zero fun hzero => by simp [hzero] at hc
    have hline : c / w < m := Nat.div_lt_of_lt_mul hc
    have hpixel : c < w * (c / w + 1) := Nat.lt_mul_div_succ c hpos
    calc largestIndex w c ≤ c + w + 1 := largestIndex_le w c
      _ ≤ w * (c / w + 1) + w := by omega
      _ = w * (c / w + 2) := (Nat.mul_add_one w (c / w + 1)).symm
      _ ≤ w * m := Nat.mul_le_mul_left w (by omega)
  · exact (largestIndex_le_succ hparity).trans hc

/-- With an odd height it is the first pixel of the last line. -/
theorem firstPast_of_odd_height {w h : Nat} (hw : w ≠ 0) (hh : h % 2 = 1) :
    FirstPast w (w * h) (w * (h - 1)) (w * h + 1) := by
  have hframe : w * h = w * (h - 1) + w := by rw [← Nat.mul_add_one, Nat.sub_add_cancel (by omega)]
  have hsite : siteOf w (w * (h - 1) + 0) = .oo := by
    rw [siteOf_mul_add (Nat.pos_of_ne_zero hw), if_pos (by omega), if_pos rfl]
  refine ⟨by omega, fun p hp => ?before, ?index, Nat.le_succ _⟩
  case before =>
    have hlargest := largestIndex_le_of_even_lines (m := h - 1) (by omega) hp
    omega
  case index => exact (largestIndex_oo hsite).trans (by omega)

/-- With an even height and an odd width it is the last pixel of the last line but one. -/
theorem firstPast_of_odd_width {w h : Nat} (hw : w % 2 = 1) (hpos : h ≠ 0) (hh : h % 2 = 0) :
    FirstPast w (w * h) (w * (h - 1) - 1) (w * h) := by
  have hframe : w * h = w * (h - 1) + w := by rw [← Nat.mul_add_one, Nat.sub_add_cancel (by omega)]
  have hline : w * (h - 1) = w * (h - 2) + w := by
    rw [← Nat.mul_add_one]
    congr 1
    omega
  have hpixel : w * (h - 1) - 1 = w * (h - 2) + (w - 1) := by omega
  have hsite : siteOf w (w * (h - 1) - 1) = .oo := by
    rw [hpixel, siteOf_mul_add (by omega), if_pos (by omega), if_pos (by omega)]
  refine ⟨by omega, fun p hp => ?before, ?index, le_rfl⟩
  case before =>
    have hlargest := largestIndex_le w p
    omega
  case index =>
    rw [largestIndex_oo hsite]
    omega

/-! The run that faults. -/

/-- The step of that pixel takes `BOUNDS`. -/
theorem step_demosaicedTo_bounds {s : State} (hphase : s.phase = .demosaic) (hagenda : s.agenda = []) {c k : Nat}
    (h : FirstPast s.w s.npix c k) : step (s.demosaicedTo c) = .next ((s.demosaicedTo c).boundsAt k) := by
  obtain ⟨hc, -, rfl, hpast⟩ := h
  have hp : (s.demosaicedTo c).p = c := State.demosaicedTo_p hc
  have hwork : blockWork (s.demosaicedTo c) = .run (siteOf s.w c).kind := by
    have hdecode := (s.demosaicedTo c).decode_dstepSelector_site
    have hdemosaic : (s.demosaicedTo c).phase = .demosaic := hphase
    simp only [blockWork, hdemosaic, selectorWork, hdecode, hp]
    rfl
  have hbounds := exec_siteKind_bounds (s := s.demosaicedTo c) (hp.symm ▸ hc) (hp.symm ▸ hpast)
  rw [hp] at hbounds
  rw [step_of_blockWork (s := s.demosaicedTo c) (.inl hagenda) hwork, State.popTurn_of_nil (s := s.demosaicedTo c) hagenda]
  exact hbounds

/-- The demosaic phase writes the pixels before it and halts. -/
theorem runSteps_demosaicPhase_bounds {s : State} (hphase : s.phase = .demosaic) (hagenda : s.agenda = [])
    (hchecks : DemosaicChecks s) (hpix : s.pix = 0#32) {c k : Nat} (h : FirstPast s.w s.npix c k) :
    runSteps (c + 1) s = .next ((s.demosaicedTo c).boundsAt k) := by
  have ⟨hc, hbefore, _, _⟩ := h
  have hrun := runSteps_demosaicedTo hphase hagenda hchecks hc hbefore
  rw [State.demosaicedTo_zero hpix] at hrun
  rw [runSteps_add hrun, runSteps_one (step_demosaicedTo_bounds hphase hagenda h)]

/-- What the run of a frame leaves that has such a pixel (R236, R239, R240, R265). -/
theorem demosaicRun_of_firstPast {s : State} (hphase : s.phase = .idle)
    (hagenda : s.agenda = [.host (.regWrite 1 0x00000002#32)]) (hw : s.w ≠ 0) (hh : s.h ≠ 0) (hpattern : s.pattern = 0#2)
    (hchecks : DemosaicChecks s) {c k : Nat} (h : FirstPast s.w s.npix c k) :
    ∃ t, runSteps (1 + (c + 1)) s = .next t
      ∧ t.phase = .halt ∧ t.ecode = some .bounds ∧ t.fpix.toNat = c ∧ t.faddr.toNat = k ∧ t.p = c
      ∧ t.done = false
      ∧ (∀ p < c, t.tripleAt p = demosaicPixel (s.byteAt .plane) s.w p)
      ∧ KeepsMemoryBut .rgb 0 (3 * c) s t := by
  have haccept := runSteps_one (step_demosaicCommand hagenda hphase hw hh hchecks hpattern)
  have hrun := runSteps_demosaicPhase_bounds (s := State.demosaicStart { s with agenda := [] }) rfl rfl hchecks rfl h
  obtain ⟨hc, -, hindex, -⟩ := h
  have hfits : k < 2 ^ 32 := hindex ▸ (largestIndex_le s.w c).trans_lt (State.next_line_index_lt hc)
  have hpix : (BitVec.ofNat 32 c).toNat = c := Nat.mod_eq_of_lt (hc.trans s.npix_lt)
  refine ⟨_, (runSteps_add haccept (c + 1)).trans hrun, rfl, rfl, hpix, Nat.mod_eq_of_lt hfits, hpix, rfl,
    fun p hp => State.demosaicedTo_tripleAt (State.demosaicStart { s with agenda := [] }) hp, fun sp k hother => ?_⟩
  have hkept := State.demosaicedTo_keepsMemoryBut (State.demosaicStart { s with agenda := [] }) c sp k hother
  cases sp <;> exact hkept

/-- Settles O53: `demosaicRun_of_firstPast` at the pixel that the odd dimension determines. -/
theorem demosaicRunOfAnOddFrameFaults : Obligations.DemosaicRunOfAnOddFrameFaults := by
  rintro s hphase hagenda hw hh hodd hpattern hplane hrgb _ _ rfl rfl
  refine demosaicRun_of_firstPast hphase hagenda hw hh hpattern ⟨hplane, hrgb⟩ ?_
  by_cases hheight : s.h % 2 = 1
  · rw [if_pos hheight, if_pos hheight]
    exact firstPast_of_odd_height hw hheight
  · rw [if_neg hheight, if_neg hheight]
    exact firstPast_of_odd_width (hodd.resolve_right hheight) hh (by omega)

end Sys2Proof.Machine
end

section
/-! The bitmap container and the write-retry loop of the host (spec/43_host_container.md R201 to R207). -/

namespace Sys2Proof.Machine

/-! The header in front of the payload (R201 to R203). -/

@[simp] theorem fileHeader_length (rgbLen : Nat) : (fileHeader rgbLen).length = 14 := by simp [fileHeader]

@[simp] theorem infoHeader_length (width height rgbLen : Nat) : (infoHeader width height rgbLen).length = 40 := by
  simp [infoHeader]

@[simp] theorem bitmapHeader_length (width height rgbLen : Nat) : (bitmapHeader width height rgbLen).length = 54 := by
  simp [bitmapHeader]

/-- Settles O57: the header is 54 bytes and the payload follows it. -/
theorem bitmapFileLength : Obligations.BitmapFileLength := by
  intro width height rgb
  have hheader := bitmapHeader_length width height rgb.length
  exact ⟨by rw [bitmapFile, List.length_append, hheader], List.drop_left' hheader⟩

/-! The write-retry loop (R207). -/

/-- Induction along the calls of the loop: nothing is left to write, the loop waits for a call, a call fails, or a call
takes some bytes and the loop goes on with the tail. -/
theorem writeLoop_induction {motive : List Byte → List Int → Written → Prop}
    (done : ∀ sink, motive [] sink ⟨.success, [], [], sink⟩)
    (waiting : ∀ tail, tail ≠ [] → motive tail [] ⟨.unfinished, [], [], []⟩)
    (refused : ∀ tail n sink, tail ≠ [] → n ≤ 0 → motive tail (n :: sink) ⟨.writeFailure, [tail], [], sink⟩)
    (taken : ∀ tail n sink w, tail ≠ [] → 0 < n → motive (tail.drop n.toNat) sink w →
      motive tail (n :: sink) { w with calls := tail :: w.calls, accepted := tail.take n.toNat ++ w.accepted })
    (bytes : List Byte) (sink : List Int) : motive bytes sink (writeLoop bytes sink) := by
  induction sink generalizing bytes with
  | nil =>
    rcases eq_or_ne bytes [] with rfl | hne
    · exact done []
    · rcases writeLoop_cases hne [] with ⟨-, heq⟩ | ⟨n, rest, hsink, -⟩
      · exact heq ▸ waiting bytes hne
      · cases hsink
  | cons n sink ih =>
    rcases eq_or_ne bytes [] with rfl | hne
    · exact done (n :: sink)
    · rcases writeLoop_cases hne (n :: sink) with ⟨hsink, -⟩ | ⟨_, _, hsink, hcall⟩
      · cases hsink
      · obtain ⟨rfl, rfl⟩ := List.cons.inj hsink
        rcases hcall with ⟨hn, heq⟩ | ⟨hn, heq⟩
        · exact heq ▸ refused bytes n sink hne hn
        · exact heq ▸ taken bytes n sink _ hne hn (ih _)

/-- The accepted bytes come first, and the loop succeeds exactly when nothing comes after them. -/
theorem writeLoop_accepted_append (bytes : List Byte) (sink : List Int) :
    ∃ tail, bytes = (writeLoop bytes sink).accepted ++ tail
      ∧ ((writeLoop bytes sink).result = .success ↔ tail = []) := by
  induction bytes, sink using writeLoop_induction with
  | done sink => exact ⟨[], rfl, by simp⟩
  | waiting tail hne => exact ⟨tail, rfl, by simp [hne]⟩
  | refused tail n sink hne hn => exact ⟨tail, rfl, by simp [hne]⟩
  | taken tail n sink w hne hn ih =>
    obtain ⟨left, hsplit, hresult⟩ := ih
    exact ⟨left, by rw [List.append_assoc, ← hsplit, List.take_append_drop], hresult⟩

/-- A failed loop made positive calls, then the one that was not. -/
theorem writeLoop_failure (bytes : List Byte) (sink : List Int) (h : (writeLoop bytes sink).result = .writeFailure) :
    ∃ used n, sink = used ++ n :: (writeLoop bytes sink).rest ∧ n ≤ 0 ∧ ∀ m ∈ used, 0 < m := by
  induction bytes, sink using writeLoop_induction with
  | done | waiting => cases h
  | refused tail n sink hne hn => exact ⟨[], n, rfl, hn, by simp⟩
  | taken tail n sink w hne hn ih =>
    obtain ⟨used, last, hsink, hlast, hused⟩ := ih h
    exact ⟨n :: used, last, by rw [hsink, List.cons_append], hlast, List.forall_mem_cons.2 ⟨hn, hused⟩⟩

/-- Each call is given the tail after what the calls before it took. -/
theorem writeLoop_calls (bytes : List Byte) (sink : List Int) : ∀ i < (writeLoop bytes sink).calls.length,
    (writeLoop bytes sink).calls[i]? = some (bytes.drop ((sink.take i).map Int.toNat).sum) := by
  induction bytes, sink using writeLoop_induction with
  | done | waiting => exact fun i hi => absurd hi (Nat.not_lt_zero i)
  | refused tail n sink hne hn =>
    intro i hi
    obtain rfl : i = 0 := Nat.lt_one_iff.1 hi
    rfl
  | taken tail n sink w hne hn ih =>
    intro i hi
    cases i with
    | zero => rfl
    | succ i => simpa using ih i (Nat.lt_of_succ_lt_succ hi)

/-- As long as every call makes progress, a list of results with `spare` more than there are bytes is enough to write
them all, and leaves at least those. -/
theorem writeLoop_succeeds (bytes : List Byte) (sink : List Int) (spare : Nat) (hprogress : ∀ n ∈ sink, 0 < n)
    (henough : bytes.length + spare ≤ sink.length) :
    (writeLoop bytes sink).result = .success ∧ (∀ n ∈ (writeLoop bytes sink).rest, 0 < n)
      ∧ spare ≤ (writeLoop bytes sink).rest.length := by
  induction bytes, sink using writeLoop_induction with
  | done sink => exact ⟨rfl, hprogress, by simpa using henough⟩
  | waiting tail hne =>
    have hpos := List.length_pos_iff.2 hne
    rw [List.length_nil] at henough
    omega
  | refused tail n sink hne hn => exact absurd (hprogress n List.mem_cons_self) (by omega)
  | taken tail n sink w hne hn ih =>
    have hpos := List.length_pos_iff.2 hne
    refine ih (fun m hm => hprogress m (List.mem_cons_of_mem n hm)) ?_
    rw [List.length_drop]
    rw [List.length_cons] at henough
    omega

/-- A loop that succeeds wrote every byte. -/
theorem writeLoop_accepted_of_success {bytes : List Byte} {sink : List Int}
    (h : (writeLoop bytes sink).result = .success) : (writeLoop bytes sink).accepted = bytes := by
  obtain ⟨tail, hsplit, hresult⟩ := writeLoop_accepted_append bytes sink
  rw [hresult.1 h, List.append_nil] at hsplit
  exact hsplit.symm

/-- Settles O58, each part by induction along the calls. -/
theorem writeLoopWritesAPrefix : Obligations.WriteLoopWritesAPrefix := fun bytes sink =>
  ⟨writeLoop_accepted_append bytes sink, writeLoop_failure bytes sink, writeLoop_calls bytes sink,
    fun hprogress henough => (writeLoop_succeeds bytes sink 0 hprogress henough).1⟩

end Sys2Proof.Machine
end

section
/-! The host's turns in a run (spec/43_host_container.md R212): what the turns of the driver sequence do to the block, a
`WAIT` among them (spec/30_encoding.md R99) with the block's own steps between its polls. -/

namespace Sys2Proof.Machine

/-! Runs of turns, cut where a part of the turns is done. -/

/-- Running the turns of `s` comes to `t` within `n` steps, with the rest of the fuel still to spend. -/
def TurnsReach (n : Nat) (s t : State) : Prop := ∃ k ≤ n, ∀ fuel, runTurns (k + fuel) s = runTurns fuel t

theorem TurnsReach.refl (s : State) : TurnsReach 0 s s := ⟨0, le_rfl, fun fuel => by rw [Nat.zero_add]⟩

theorem TurnsReach.trans {m n : Nat} {s t u : State} (h : TurnsReach m s t) (h' : TurnsReach n t u) :
    TurnsReach (m + n) s u := by
  obtain ⟨k, hk, hrun⟩ := h
  obtain ⟨k', hk', hrun'⟩ := h'
  exact ⟨k + k', Nat.add_le_add hk hk', fun fuel => by rw [Nat.add_assoc, hrun, hrun']⟩

theorem TurnsReach.mono {m n : Nat} {s t : State} (h : TurnsReach m s t) (hle : m ≤ n) : TurnsReach n s t := by
  obtain ⟨k, hk, hrun⟩ := h
  exact ⟨k, hk.trans hle, hrun⟩

theorem TurnsReach.of_step {s t : State} {turn : Turn} {rest : List Turn} (hagenda : s.agenda = turn :: rest)
    (hstep : step s = .next t) : TurnsReach 1 s t :=
  ⟨1, le_rfl, fun fuel => by rw [Nat.add_comm, runTurns_step (by simp [hagenda]) hstep]⟩

/-- The host's run ends where its turns end. -/
theorem TurnsReach.hostRun_eq {n blockSteps : Nat} {turns : List Turn} {s t : State}
    (h : TurnsReach n { s with agenda := turns } t) (hagenda : t.agenda = []) (hn : n ≤ turns.length + 2 * blockSteps) :
    s.hostRun turns blockSteps = .next t := by
  obtain ⟨k, hk, hrun⟩ := h
  obtain ⟨fuel, hfuel⟩ := Nat.exists_eq_add_of_le (hk.trans hn)
  rw [State.hostRun, hfuel, hrun, runTurns_done hagenda]

/-! Storing a list of bytes (`FILL`, R99). -/

/-- The memory with `bytes` stored from index `k` on. -/
def Memory.storeAll (m : Memory) : Nat → List Byte → Memory
  | _, [] => m
  | k, b :: bytes => (m.write k b).storeAll (k + 1) bytes

theorem Memory.read_storeAll_outside (m : Memory) {k j : Nat} {bytes : List Byte} (h : j < k ∨ k + bytes.length ≤ j) :
    (m.storeAll k bytes).read j = m.read j := by
  induction bytes generalizing m k with
  | nil => rfl
  | cons b bytes ih =>
    rw [List.length_cons] at h
    rw [Memory.storeAll, ih _ (by omega), Memory.read_write_other _ _ _ _ (by omega)]

theorem Memory.read_storeAll_inside (m : Memory) {k i : Nat} {bytes : List Byte} (h : i < bytes.length) :
    (m.storeAll k bytes).read (k + i) = bytes[i]? := by
  induction bytes generalizing m k i with
  | nil => cases h
  | cons b bytes ih =>
    cases i with
    | zero => exact ((m.write k b).read_storeAll_outside (.inl (Nat.lt_succ_self k))).trans (m.read_write_same k b)
    | succ i =>
      rw [Nat.add_left_comm, Nat.add_comm i]
      exact ih (m.write k b) (Nat.lt_of_succ_lt_succ h)

/-- The stores of an idle block's host, inside the capacity. -/
theorem turnsReach_storeTurns (bytes : List Byte) {rest : List Turn} {k : Nat} {s : State}
    (hagenda : s.agenda = storeTurns .raw k bytes ++ rest) (hfree : s.busy = false)
    (hroom : k + bytes.length ≤ s.caps.raw) :
    TurnsReach bytes.length s { s with agenda := rest, raw := s.raw.storeAll k bytes } := by
  induction bytes generalizing k s with
  | nil =>
    obtain rfl : s.agenda = rest := hagenda
    exact .refl s
  | cons b bytes ih =>
    rw [List.length_cons] at hroom
    have hstep := (step_bufWrite hagenda).trans (hostBuffer_ok hfree (show k < s.caps.raw by omega))
    rw [List.length_cons, Nat.add_comm]
    exact (TurnsReach.of_step hagenda hstep).trans (ih rfl hfree (show k + 1 + bytes.length ≤ s.caps.raw by omega))

/-! The block's steps do not look at what the host has still to do, nor at what it has read. -/

/-- The state with other turns to come and other replies. -/
def State.withHost (turns : List Turn) (replies : List HostReply) (s : State) : State :=
  { s with agenda := turns, replies := replies }

/-- The `STATUS` word just read is still the one that stands. -/
theorem State.lastRead_withHost (s : State) (turns : List Turn) (replies : List HostReply) :
    (s.withHost turns (.reg 2 s.statusWord :: replies)).lastRead
      = (s.withHost turns (.reg 2 s.statusWord :: replies)).statusWord := rfl

section WithHost
variable {s t : State} {turns : List Turn} {replies : List HostReply}

theorem withByte_withHost {sp : Space} {k : Nat} {cont cont' : Byte → Result}
    (hcont : ∀ b, cont b = .next t → cont' b = .next (t.withHost turns replies)) (h : withByte sp k s cont = .next t) :
    withByte sp k (s.withHost turns replies) cont' = .next (t.withHost turns replies) := by
  obtain ⟨hk, h⟩ := withByte_next h
  cases sp <;> exact (if_pos hk).trans (hcont _ h)

theorem withSecondByte_withHost {k : Nat} {cont cont' : Byte → Result}
    (hcont : ∀ b, cont b = .next t → cont' b = .next (t.withHost turns replies)) (h : withSecondByte k s cont = .next t) :
    withSecondByte k (s.withHost turns replies) cont' = .next (t.withHost turns replies) := by
  rcases withSecondByte_next h with ⟨hk, hroom, h⟩ | ⟨hk, h⟩
  · exact (withSecondByte_ok hk hroom).trans (hcont _ h)
  · exact (withSecondByte_past hk).trans (hcont _ h)

theorem withPlane_withHost {k : Nat} {cont cont' : Byte → Result}
    (hcont : ∀ b, cont b = .next t → cont' b = .next (t.withHost turns replies)) (h : withPlane k s cont = .next t) :
    withPlane k (s.withHost turns replies) cont' = .next (t.withHost turns replies) := by
  rcases withPlane_next h with ⟨hk, hroom, h⟩ | ⟨hk, rfl⟩
  · exact (if_pos hk).trans ((if_pos hroom).trans (hcont _ h))
  · exact withPlane_bounds hk

theorem State.endUnpackStep_withHost (s : State) (turns : List Turn) (replies : List HostReply) :
    (s.withHost turns replies).endUnpackStep = s.endUnpackStep.withHost turns replies := by
  simp only [State.endUnpackStep_eq s, apply_ite (State.withHost turns replies)]
  rfl

theorem State.endDemosaicStep_withHost (s : State) (turns : List Turn) (replies : List HostReply) :
    (s.withHost turns replies).endDemosaicStep = s.endDemosaicStep.withHost turns replies := by
  simp only [State.endDemosaicStep_eq s, apply_ite (State.withHost turns replies)]
  rfl

theorem finishUnpack_withHost {out : Byte} (h : finishUnpack out s = .next t) :
    finishUnpack out (s.withHost turns replies) = .next (t.withHost turns replies) := by
  obtain ⟨hroom, rfl⟩ := finishUnpack_next h
  rw [← State.endUnpackStep_withHost]
  exact finishUnpack_ok (s := s.withHost turns replies) hroom

theorem finishDemosaic_withHost {b g r : Byte} (h : finishDemosaic b g r s = .next t) :
    finishDemosaic b g r (s.withHost turns replies) = .next (t.withHost turns replies) := by
  obtain ⟨hroom, rfl⟩ := finishDemosaic_next h
  rw [← State.endDemosaicStep_withHost]
  exact finishDemosaic_ok (s := s.withHost turns replies) hroom

theorem exec_unpackKind_withHost {i : Instr} (hi : i ∈ unpackKinds) (h : exec i s = .next t) :
    exec i (s.withHost turns replies) = .next (t.withHost turns replies) := by
  have hd : (s.withHost turns replies).d = s.d := rfl
  have hp : (s.withHost turns replies).p = s.p := rfl
  cases i with
  | unpkCopy => exact withByte_withHost (fun _ => finishUnpack_withHost) h
  | unpkOne =>
    simp only [exec, execUnpkOne, hd, hp] at h ⊢
    exact withByte_withHost (fun _ => withSecondByte_withHost fun _ => finishUnpack_withHost) h
  | unpkTwo =>
    simp only [exec, execUnpkTwo, hd, hp] at h ⊢
    exact withByte_withHost (fun _ => withSecondByte_withHost fun _ => finishUnpack_withHost) h
  | _ => simp at hi

theorem exec_demosaicKind_withHost {i : Instr} (hi : i ∈ demosaicKinds) (h : exec i s = .next t) :
    exec i (s.withHost turns replies) = .next (t.withHost turns replies) := by
  cases i with
  | dmOO | dmEO | dmEE =>
    exact withPlane_withHost (fun _ => withPlane_withHost fun _ => withPlane_withHost fun _ => finishDemosaic_withHost) h
  | dmOE =>
    exact withPlane_withHost (fun _ => withPlane_withHost fun _ => withPlane_withHost fun _ =>
      withPlane_withHost fun _ => finishDemosaic_withHost) h
  | _ => simp at hi

end WithHost

/-- A step of the busy block on its turn is the step it takes when the host has no turn waiting. -/
theorem step_blockTurn {s t : State} (hagenda : s.agenda = []) (hbusy : s.busy = true) (hstep : step s = .next t)
    (rest : List Turn) (replies : List HostReply) :
    step (s.withHost (.block :: rest) replies) = .next (t.withHost rest replies) ∧ t.agenda = [] := by
  have hturn : (s.withHost (.block :: rest) replies).agenda = [] ∨
      ∃ rest', (s.withHost (.block :: rest) replies).agenda = .block :: rest' := .inr ⟨rest, rfl⟩
  have hexec {i : Instr} (hwork : blockWork s = .run i) : exec i s = .next t := by
    rw [← hstep, step_of_blockWork (.inl hagenda) hwork, State.popTurn_of_nil hagenda]
  rcases s.busy_iff.1 hbusy with hphase | hphase
  · obtain ⟨i, hi, hwork⟩ := blockWork_unpack hphase
    exact ⟨(step_of_blockWork hturn hwork).trans (exec_unpackKind_withHost (s := s) hi (hexec hwork)),
      (exec_unpackKind hi (hexec hwork)).agenda_eq.trans hagenda⟩
  · obtain ⟨i, hi, hwork⟩ := blockWork_demosaic hphase
    exact ⟨(step_of_blockWork hturn hwork).trans (exec_demosaicKind_withHost (s := s) hi (hexec hwork)),
      (exec_demosaicKind hi (hexec hwork)).agenda_eq.trans hagenda⟩

/-! The lines of the driver sequence. -/

/-- A block that is not busy stays as it is while no turn waits. -/
theorem runSteps_of_free {s : State} (hagenda : s.agenda = []) (hfree : s.busy = false) (n : Nat) :
    runSteps n s = .next s := by
  induction n with
  | zero => rfl
  | succ n ih =>
    have hstep := step_of_rest (.inl hagenda) (s.busy_eq_false_iff.1 hfree)
    rw [State.popTurn_of_nil hagenda] at hstep
    rw [runSteps_succ hstep, ih]

/-- `WAIT` lets the block go on until it is not busy: two turns for each of its steps, and the last poll. -/
theorem turnsReach_wait {n : Nat} {s t : State} (hagenda : s.agenda = []) (hrun : runSteps n s = .next t)
    (hfree : t.busy = false) (rest : List Turn) (replies : List HostReply) :
    ∃ replies', TurnsReach (2 * n + 1) (s.withHost (.wait :: rest) replies) (t.withHost rest replies') := by
  have hpoll (s : State) (replies : List HostReply) :
      TurnsReach 1 (s.withHost (.wait :: rest) replies)
        (s.withHost (if s.busy then .block :: .wait :: rest else rest) (.reg 2 s.statusWord :: replies)) :=
    .of_step rfl (step_wait (s := s.withHost (.wait :: rest) replies) rfl)
  induction n generalizing s replies with
  | zero =>
    obtain rfl := Host.Outcome.next.inj hrun
    have hlast := hpoll s replies
    rw [hfree] at hlast
    exact ⟨_, hlast⟩
  | succ n ih =>
    cases hbusy : s.busy with
    | false =>
      obtain rfl := Host.Outcome.next.inj ((runSteps_of_free hagenda hbusy (n + 1)).symm.trans hrun)
      have hlast := hpoll s replies
      rw [hbusy] at hlast
      exact ⟨_, hlast.mono (by omega)⟩
    | true =>
      have hagain := hpoll s replies
      rw [hbusy] at hagain
      rw [runSteps] at hrun
      split at hrun
      next u hstep =>
        obtain ⟨hblock, hnil⟩ := step_blockTurn hagenda hbusy hstep (.wait :: rest) (.reg 2 s.statusWord :: replies)
        obtain ⟨replies', hgoOn⟩ := ih hnil hrun (.reg 2 s.statusWord :: replies)
        exact ⟨replies', (hagain.trans ((TurnsReach.of_step rfl hblock).trans hgoOn)).mono (by omega)⟩
      all_goals cases hrun

/-- The state in which the driver presents its command: the frame's size and the raw bytes are written (steps 3 to 5). -/
def State.loaded (q : Request) (input : List Byte) (s : State) : State :=
  { s with
    width := q.width, height := q.height, raw := s.raw.storeAll 0 input, rawLen := rawLenWord input.length }

/-- The turns after those writes: the command, `WAIT`, and the `STATUS` read (steps 6 to 8). -/
def conversionTurns (c : Nat) : List Turn := [wrTurn .cmd (commandWord (.convert c)), .wait, .host (.regRead 2)]

theorem driverStart_eq (width height : Word) (ctype : Byte) (input : List Byte) :
    driverStart width height ctype input =
      wrTurn .width width :: wrTurn .height height ::
        (storeTurns .raw 0 input ++ wrTurn .rawLen (rawLenWord input.length) :: conversionTurns ctype.toNat) := rfl

@[simp] theorem storeTurns_length (sp : Space) (k : Nat) (bytes : List Byte) :
    (storeTurns sp k bytes).length = bytes.length := by
  induction bytes generalizing k with
  | nil => rfl
  | cons b bytes ih => rw [storeTurns, List.length_cons, List.length_cons, ih]

@[simp] theorem loadTurns_length (sp : Space) (k n : Nat) : (loadTurns sp k n).length = n := by
  induction n generalizing k with
  | zero => rfl
  | succ n ih => rw [loadTurns, List.length_cons, ih]

theorem driverStart_length (width height : Word) (ctype : Byte) (input : List Byte) :
    (driverStart width height ctype input).length = input.length + 6 := by
  simp [driverStart_eq, conversionTurns]

/-! The driver writes three registers, each by one turn. -/

section Writes
variable {s : State} {v : Word} {rest : List Turn}

theorem turnsReach_width (hagenda : s.agenda = wrTurn .width v :: rest) (hfree : s.busy = false) :
    TurnsReach 1 s { s with agenda := rest, width := v.setWidth 16 } :=
  .of_step hagenda <| (step_regWrite hagenda (by decide)).trans <|
    congrArg _ (State.regWrite_width (s := { s with agenda := rest }) hfree v)

theorem turnsReach_height (hagenda : s.agenda = wrTurn .height v :: rest) (hfree : s.busy = false) :
    TurnsReach 1 s { s with agenda := rest, height := v.setWidth 16 } :=
  .of_step hagenda <| (step_regWrite hagenda (by decide)).trans <|
    congrArg _ (State.regWrite_height (s := { s with agenda := rest }) hfree v)

theorem turnsReach_rawLen (hagenda : s.agenda = wrTurn .rawLen v :: rest) (hfree : s.busy = false) :
    TurnsReach 1 s { s with agenda := rest, rawLen := v } :=
  .of_step hagenda <| (step_regWrite hagenda (by decide)).trans <|
    congrArg _ (State.regWrite_rawLen (s := { s with agenda := rest }) hfree v)

end Writes

/-- Steps 3 to 5 of R212 by the host of a block that is not busy. -/
theorem turnsReach_loaded (q : Request) {input : List Byte} {s : State} (hfree : s.busy = false)
    (hroom : input.length ≤ s.caps.raw) :
    TurnsReach (input.length + 3)
      { s with agenda := driverStart (q.width.setWidth 32) (q.height.setWidth 32) q.ctype input }
      { s.loaded q input with agenda := conversionTurns q.ctype.toNat } := by
  have hfits (x : BitVec 16) : (x.setWidth 32).setWidth 16 = x := by simp
  refine TurnsReach.mono (m := 1 + (1 + (input.length + 1))) ?_ (by omega)
  refine TurnsReach.trans (turnsReach_width (driverStart_eq ..) hfree) ?_
  refine TurnsReach.trans (turnsReach_height rfl hfree) ?_
  refine TurnsReach.trans (turnsReach_storeTurns input rfl hfree ((Nat.zero_add _).trans_le hroom)) ?_
  rw [hfits, hfits]
  exact turnsReach_rawLen rfl hfree

/-- Steps 6 to 8 of R212: the command is presented, the block runs until it is not busy, and `STATUS` is read. -/
theorem turnsReach_conversionTurns {c n : Nat} {s v t : State} (hc : c < 256) (hagenda : s.agenda = conversionTurns c)
    (hexec : ∀ turns, exec (.convert c) { s with agenda := turns } = .next { v with agenda := turns })
    (hrun : runSteps n { v with agenda := [] } = .next t) (hfree : t.busy = false) :
    ∃ replies, TurnsReach (2 * n + 3) s (t.withHost [] (.reg 2 t.statusWord :: replies)) := by
  have hdecode : decode (.cmdw (commandWord (.convert c))) = .instr (.convert c) :=
    decodeOfEncodeIsTheInstruction (.convert c) (decide_eq_true hc)
  have hcommand := TurnsReach.of_step hagenda ((step_command hagenda hdecode).trans (hexec _))
  obtain ⟨replies, hwait⟩ := turnsReach_wait rfl hrun hfree [.host (.regRead 2)] v.replies
  have hread := TurnsReach.of_step rfl (step_regRead (s := t.withHost [.host (.regRead 2)] replies) rfl)
  exact ⟨replies, (hcommand.trans (hwait.trans hread)).mono (by omega)⟩

/-- The conversion up to step 8: what the block does once the command runs decides how the driver goes on. -/
theorem driverConvert_eq {q : Request} {data : List Byte} {n : Nat} {s v t : State} (hfree : s.busy = false)
    (hroom : (q.obtained data).length ≤ s.caps.raw)
    (hexec : ∀ turns, exec (.convert q.ctype.toNat) { s.loaded q (q.obtained data) with agenda := turns }
      = .next { v with agenda := turns })
    (hrun : runSteps n { v with agenda := [] } = .next t) (hdone : t.busy = false)
    (hn : n ≤ 2 * (q.width.toNat * q.height.toNat)) :
    ∃ replies, driverConvert q data s = driverFinish q (t.withHost [] (.reg 2 t.statusWord :: replies)) := by
  obtain ⟨replies, hconvert⟩ := turnsReach_conversionTurns
    (s := { s.loaded q (q.obtained data) with agenda := conversionTurns q.ctype.toNat }) q.ctype.isLt rfl hexec hrun hdone
  have hhost := ((turnsReach_loaded q hfree hroom).trans hconvert).hostRun_eq (blockSteps := q.blockSteps s) rfl
    (by rw [driverStart_length, Request.blockSteps]; omega)
  exact ⟨replies, by simp only [driverConvert, hhost]⟩

end Sys2Proof.Machine
end

section
/-! The ends of the driver sequence in which no output is written (spec/43_host_container.md R208, R212, 60_exceptions.md
R231). -/

namespace Sys2Proof.Machine

/-- The kind that the host reads off the `STATUS` word of a block with a fault record (R212 step 8). -/
theorem errorOfStatus_statusWord {s : State} {f : FaultCode} (hecode : s.ecode = some f) :
    errorOfStatus s.statusWord = f.hostError := by
  obtain ⟨-, -, hfield, -⟩ := s.statusWord_fields
  rw [errorOfStatus, hfield, hecode, ecodeBits, FaultCode.ofCode_code]

/-- The recovery resets the block and keeps its memories (R125, R212 step 8). -/
theorem hostRun_driverRecovery (s : State) :
    ∃ t, s.hostRun driverRecovery 0 = .next t ∧ AtReset t ∧ KeepsMemory s t := by
  obtain ⟨hsoft, -⟩ := resetValuesOfEveryRegister
  obtain ⟨t, hexec, hreset, hkeeps, -, hagenda, -⟩ := hsoft { s with agenda := [] }
  have hstep := (step_command (s := { s with agenda := driverRecovery }) rfl rfl).trans hexec
  refine ⟨t, (TurnsReach.of_step rfl hstep).hostRun_eq hagenda (by decide), hreset, fun sp k => ?_⟩
  rw [hkeeps]
  cases sp <;> rfl

/-- After the `STATUS` read of a halted block the driver resets it and returns the kind of its fault. -/
theorem driverFinish_of_halt (q : Request) {s : State} {f : FaultCode} (hphase : s.phase = .halt)
    (hecode : s.ecode = some f) (hread : s.lastRead = s.statusWord) :
    ∃ t, driverFinish q s = ⟨.failed f.hostError, none, t⟩ ∧ AtReset t ∧ KeepsMemory s t := by
  obtain ⟨t, hrun, hreset, hkeeps⟩ := hostRun_driverRecovery s
  obtain ⟨-, -, herr, -⟩ := s.statusWord_flags
  rw [(s.err_iff).2 hphase] at herr
  refine ⟨t, ?_, hreset, hkeeps⟩
  rw [driverFinish, hread, if_pos herr, driverFail, hrun, errorOfStatus_statusWord hecode]

/-- The raw bytes loaded are the only bytes that step 4 of R212 writes. -/
theorem State.loaded_keepsMemoryBut (q : Request) (input : List Byte) (s : State) :
    KeepsMemoryBut .raw 0 input.length s (s.loaded q input) := by
  intro sp k hother
  cases sp with
  | plane | rgb => rfl
  | raw =>
    have hread : ((s.loaded q input).mem .raw).read k = (s.mem .raw).read k :=
      Memory.read_storeAll_outside _ (by simpa using hother)
    rw [State.byteAt, hread]
    rfl

/-- Where the host lets the type pass and both files can be read and written, the driver goes on to the block. -/
theorem driver_eq_driverConvert {q : Request} {data : List Byte} (hcheck : ¬ (q.checksType = true ∧ q.ctype ≠ 0#8))
    (hinput : q.input = .bytes data) (hopens : q.outputOpens = true) (s : State) :
    driver q s = driverConvert q data s := by
  simp only [driver, if_neg hcheck, hinput, hopens, if_true]

/-- The block that refused the request's type: the raw bytes loaded, `ARG_CMD` recorded (R124, R232). -/
def State.refused (q : Request) (input : List Byte) (s : State) : State :=
  (s.loaded q input).haltedBy .argCmd (BitVec.ofNat 32 (3 + 256 * q.ctype.toNat))

/-- A type left to the block, which refuses it: the raw bytes are loaded, the block halts with `ARG_CMD` and is reset. -/
theorem driverConvert_of_refused {q : Request} {s : State} {data : List Byte} (htype : q.ctype ≠ 0#8)
    (hphase : s.phase = .idle) (hroom : (q.obtained data).length ≤ s.caps.raw) :
    ∃ t, driverConvert q data s = ⟨.failed .argumentError, none, t⟩ ∧ AtReset t
      ∧ KeepsMemoryBut .raw 0 (q.obtained data).length s t := by
  have hfree : s.busy = false := s.busy_eq_false_iff.2 (.inl hphase)
  have hctype : q.ctype.toNat ≠ 0 := fun h => htype (BitVec.eq_of_toNat_eq h)
  obtain ⟨replies, hconvert⟩ := driverConvert_eq (v := s.refused q (q.obtained data)) (n := 0) hfree hroom
    (fun turns => exec_convert_refused hphase hctype q.ctype.isLt) rfl rfl (Nat.zero_le _)
  rw [hconvert]
  obtain ⟨t, hfinish, hreset, hkeeps⟩ :=
    driverFinish_of_halt q rfl rfl (State.lastRead_withHost (s.refused q (q.obtained data)) [] replies)
  refine ⟨t, hfinish, hreset, fun sp k hother => ?_⟩
  rw [hkeeps, ← s.loaded_keepsMemoryBut q (q.obtained data) sp k hother]
  cases sp <;> rfl

/-- Settles O59: the host's own checks by the branches of `driver`, the block's faults by `driverFinish_of_halt`. -/
theorem driverEndsWithoutOutput : Obligations.DriverEndsWithoutOutput := by
  refine ⟨fun q s => ⟨fun hcheck htype => ?refused, fun hmissing => ?missing, fun hpasses hfile => ?file⟩,
    fun q s data hcheck htype hinput hopens hphase hroom => ?block, fun q s f => driverFinish_of_halt q,
    rfl, rfl, rfl, rfl, rfl⟩
  case refused => exact if_pos ⟨hcheck, htype⟩
  case missing =>
    rw [driver, hmissing]
    exact ite_self _
  case file =>
    have hcheck : ¬ (q.checksType = true ∧ q.ctype ≠ 0#8) := by
      rintro ⟨hchecks, htype⟩
      exact hpasses.elim (by simp [hchecks]) htype
    rw [driver, if_neg hcheck]
    rcases hfile with hinput | ⟨⟨data, hinput⟩, hopens⟩
    · rw [hinput]
    · rw [hinput, hopens]
      rfl
  case block =>
    rw [driver_eq_driverConvert (by simp [hcheck]) hinput hopens]
    exact driverConvert_of_refused htype hphase hroom

end Sys2Proof.Machine
end

section
/-! The driver sequence over an even frame, up to the bitmap file in its output (spec/43_host_container.md R206, R212). -/

namespace Sys2Proof.Machine

/-! The RGB buffer as the host dumps it. -/

/-- The first `3 * n` bytes of `RGB` are the triples of the first `n` pixels in order (spec/20_memory.md R66). -/
theorem State.map_byteAt_rgb (s : State) (n : Nat) :
    (List.range' 0 (3 * n)).map (s.byteAt .rgb) = (List.range n).flatMap fun p => (s.tripleAt p).bytes := by
  rw [← List.range_eq_range']
  induction n with
  | zero => rfl
  | succ n ih =>
    rw [Nat.mul_succ, List.range_succ, List.range_succ, List.range_succ, List.range_succ, List.flatMap_append, ← ih]
    simp [Triple.bytes, State.tripleAt]

theorem driverDump_eq (n : Nat) : driverDump n = loadTurns .rgb 0 n := by
  simp [driverDump, scriptTurns, ScriptLine.turns]

/-- Step 10 of R212: the bytes of the RGB buffer are the host's last replies. -/
theorem hostRun_driverDump {s : State} {n : Nat} (hfree : s.busy = false) (hroom : n ≤ s.caps.rgb) :
    ∃ replies, s.hostRun (driverDump n) 0 = .next (s.withHost [] replies)
      ∧ (s.withHost [] replies).lastBytes n = (List.range' 0 n).map (s.byteAt .rgb) := by
  have hrun := runTurns_loadTurns .rgb n 0 { s with agenda := loadTurns .rgb 0 n } rfl hfree
    ((Nat.zero_add n).trans_le hroom)
  refine ⟨_, ?_, lastBytes_readReplies { s with agenda := loadTurns .rgb 0 n } _ .rgb 0 n s.replies rfl⟩
  rw [State.hostRun, driverDump_eq, loadTurns_length]
  exact hrun

/-- Steps 8 to 11 of R212 where the `STATUS` read shows no error and the sink makes progress often enough: the header and
the RGB buffer are written. -/
theorem driverFinish_of_idle {q : Request} {s : State} (hphase : s.phase = .idle) (hread : s.lastRead = s.statusWord)
    (hroom : q.rgblen ≤ s.caps.rgb) (hprogress : ∀ n ∈ q.sink, 0 < n) (henough : 54 + q.rgblen ≤ q.sink.length) :
    ∃ replies, driverFinish q s = ⟨.success,
      some (bitmapFile q.width.toNat q.height.toNat ((List.range' 0 q.rgblen).map (s.byteAt .rgb))),
      s.withHost [] replies⟩ := by
  obtain ⟨-, -, herr, -⟩ := s.statusWord_flags
  have hok : s.statusWord.getLsbD 2 = false := herr.trans (by simp [State.err, hphase])
  obtain ⟨replies, hdump, hbytes⟩ := hostRun_driverDump (s.busy_eq_false_iff.2 (.inl hphase)) hroom
  obtain ⟨hhead, hleft, hspare⟩ := writeLoop_succeeds (bitmapHeader q.width.toNat q.height.toNat q.rgblen) q.sink q.rgblen
    hprogress (by rwa [bitmapHeader_length])
  obtain ⟨hbody, -, -⟩ := writeLoop_succeeds ((List.range' 0 q.rgblen).map (s.byteAt .rgb)) _ 0 hleft
    (by simpa using hspare)
  refine ⟨replies, ?_⟩
  rw [driverFinish, hread, hok]
  simp only [Bool.false_eq_true, if_false, hhead, driverPayload, hdump, hbytes, hbody, WriteResult.status,
    writeLoop_accepted_of_success hhead, writeLoop_accepted_of_success hbody]
  simp [bitmapFile]

/-! The frame that the block converts. -/

/-- The raw bytes of the frame are those of the input. -/
theorem State.loaded_byteAt_raw {q : Request} {data : List Byte} {k : Nat} (s : State)
    (hk : k < frameBytes (q.width.toNat * q.height.toNat) 10) (hdata : k < data.length) :
    (s.loaded q (q.obtained data)).byteAt .raw k = data.getD k 0#8 := by
  have hinside : k < (q.obtained data).length := by
    rw [Request.obtained, List.length_take]
    exact lt_min hk hdata
  have hread := s.raw.read_storeAll_inside (k := 0) hinside
  rw [Nat.zero_add, Request.obtained, List.getElem?_take_of_lt hk, List.getElem?_eq_getElem hdata] at hread
  rw [State.byteAt, List.getD_eq_getElem _ _ hdata]
  simp only [State.mem, State.loaded, Request.obtained, hread]

/-- A pixel of an even frame depends on the raw bytes of the frame alone. -/
theorem convertedPixel_congr {raw raw' : Nat → Byte} {w h p : Nat} (hw : w % 2 = 0) (hh : h % 2 = 0) (hp : p < w * h)
    (hraw : ∀ k < frameBytes (w * h) 10, raw k = raw' k) :
    demosaicPixel (fun i => BitVec.ofNat 8 (unpackSample raw 10 i)) w p
      = demosaicPixel (fun i => BitVec.ofNat 8 (unpackSample raw' 10 i)) w p := by
  have hlargest := largestIndex_lt_of_even hw hh hp
  have hbit (g : Nat) (hg : g < 10 * (w * h)) : rawBit raw g = rawBit raw' g := by
    rw [rawBit, rawBit, hraw (g / 8) (by rw [frameBytes, ceilDiv]; omega)]
  exact demosaicPixel_congr fun i hi => congrArg (BitVec.ofNat 8) (unpackSample_congr (hi.trans_lt hlargest) hbit)

/-- The two phases of an accepted `CONVERT 0` over an even frame, with no turn waiting: the block ends in `IDLE` with
`DONE` set and every pixel converted, its capacities as they were. -/
theorem runSteps_convertStart {s : State} (hagenda : s.agenda = [.host (.regWrite 1 0x00000003#32)])
    (hphase : s.phase = .idle) (hw : s.w ≠ 0) (hh : s.h ≠ 0) (hwEven : s.w % 2 = 0)
    (hhEven : s.h % 2 = 0) (hraw : frameBytes s.npix 10 ≤ s.caps.raw) (hplane : s.npix ≤ s.caps.plane)
    (hrgb : s.rgblen ≤ s.caps.rgb) (hlen : frameBytes s.npix 10 ≤ s.rawLen.toNat) :
    ∃ t, runSteps (2 * s.npix) { s.convertStart with agenda := [] } = .next t ∧ t.phase = .idle ∧ t.done = true
      ∧ t.caps = s.caps
      ∧ ∀ p < s.npix, t.tripleAt p
          = demosaicPixel (fun i => BitVec.ofNat 8 (unpackSample (s.byteAt .raw) 10 i)) s.w p := by
  have haccept := (step_command hagenda rfl).trans
    (convertStarts { s with agenda := [] } hphase hw hh hraw hplane hrgb hlen)
  obtain ⟨t, hrun, hidle, hdone, -, -, -, -, -, htriple, -⟩ :=
    convertRunOfAnEvenFrame s hphase hagenda hw hh hwEven hhEven hraw hplane hrgb hlen
  have hexact := runSteps_convert hphase hagenda hw hh hwEven hhEven hraw hplane hrgb hlen
  have hcaps : t.caps = s.caps := by
    obtain rfl := Host.Outcome.next.inj (hexact.symm.trans hrun)
    rfl
  exact ⟨t, (runSteps_add (runSteps_one haccept) (2 * s.npix)).symm.trans hrun, hidle, hdone, hcaps, htriple⟩

/-- Steps 3 to 7 of R212 for a request of type 0 over an even frame that fits: the driver goes on with the block in `IDLE`,
`DONE` set and the frame converted. -/
theorem driverConvert_of_evenFrame {q : Request} {s : State} {data : List Byte} (htype : q.ctype = 0#8)
    (hphase : s.phase = .idle) (hw : q.width.toNat ≠ 0) (hh : q.height.toNat ≠ 0) (hwEven : q.width.toNat % 2 = 0)
    (hhEven : q.height.toNat % 2 = 0) (hraw : frameBytes (q.width.toNat * q.height.toNat) 10 ≤ s.caps.raw)
    (hplane : q.width.toNat * q.height.toNat ≤ s.caps.plane) (hrgb : q.rgblen ≤ s.caps.rgb) (hlegal : s.caps.legal)
    (hdata : frameBytes (q.width.toNat * q.height.toNat) 10 ≤ data.length) :
    ∃ t, driverConvert q data s = driverFinish q t ∧ t.lastRead = t.statusWord ∧ t.phase = .idle ∧ t.done = true
      ∧ t.caps = s.caps
      ∧ (List.range' 0 q.rgblen).map (t.byteAt .rgb)
        = convertedRgb (fun k => data.getD k 0#8) q.width.toNat q.height.toNat := by
  have hobtained : (q.obtained data).length = frameBytes (q.width.toNat * q.height.toNat) 10 :=
    List.length_take_of_le hdata
  have hfits : (q.obtained data).length < 2 ^ 32 := by
    obtain ⟨-, -, -, hcap⟩ := hlegal
    rw [hobtained, frameBytes, ceilDiv]
    rw [Request.rgblen] at hrgb
    omega
  have hlen : frameBytes (q.width.toNat * q.height.toNat) 10 ≤ (rawLenWord (q.obtained data).length).toNat := by
    rw [rawLenWord_toNat hfits, hobtained]
  obtain ⟨t, hrun, hidle, hdone, hcaps, htriple⟩ := runSteps_convertStart
    (s := { s.loaded q (q.obtained data) with agenda := _ }) rfl hphase hw hh hwEven hhEven hraw hplane hrgb hlen
  obtain ⟨replies, hconvert⟩ := driverConvert_eq (s.busy_eq_false_iff.2 (.inl hphase)) (hobtained.trans_le hraw)
    (fun turns => by
      rw [htype]
      exact convertStarts { s.loaded q (q.obtained data) with agenda := turns } hphase hw hh hraw hplane hrgb hlen)
    hrun (t.busy_eq_false_iff.2 (.inl hidle)) le_rfl
  refine ⟨_, hconvert, t.lastRead_withHost [] replies, hidle, hdone, hcaps, ?_⟩
  rw [Request.rgblen, State.map_byteAt_rgb]
  refine List.flatMap_congr fun p hp => congrArg Triple.bytes ?_
  have hpixel := List.mem_range.1 hp
  exact (htriple p hpixel).trans (convertedPixel_congr hwEven hhEven hpixel fun k hk =>
    s.loaded_byteAt_raw hk (hk.trans_le hdata))

/-- Settles O60: the run of the block by `driverConvert_of_evenFrame`, the writing by `driverFinish_of_idle`. -/
theorem driverWritesTheBitmap : Obligations.DriverWritesTheBitmap := by
  rintro q s data _ _ rfl rfl hw hh hwEven hhEven htype hinput hopens hphase hlegal hraw hplane hrgb
    hdata hprogress henough
  obtain ⟨t, hconvert, hread, hidle, hdone, hcaps, hbytes⟩ :=
    driverConvert_of_evenFrame htype hphase hw hh hwEven hhEven hraw hplane hrgb hlegal hdata
  obtain ⟨replies, hfinish⟩ := driverFinish_of_idle hidle hread (hcaps ▸ hrgb) hprogress henough
  rw [hbytes] at hfinish
  exact ⟨_, (driver_eq_driverConvert (by simp [htype]) hinput hopens s).trans (hconvert.trans hfinish), hidle, hdone, rfl⟩

end Sys2Proof.Machine
end

section
/-! `HALT` and the interrupt level (spec/60_exceptions.md R242, R243): a step from `HALT` is one of the two resets, or it
leaves the phase, the fault record and `PIX` alone; and a busy block has no cause to request an interrupt. -/

namespace Sys2Proof.Machine

open Safe

/-! The interrupt level (R243). -/

/-- A busy block has neither completed a run nor faulted, and no other cause raises `irq` (R37, R43). -/
theorem Safe.FlagsOk.irq_eq_false {s : State} (h : FlagsOk s) (hbusy : s.phase = .unpack ∨ s.phase = .demosaic) :
    s.irq = false := by
  have hidle : s.phase ≠ .idle := by rcases hbusy with hphase | hphase <;> simp [hphase]
  have hhalt : s.phase ≠ .halt := by rcases hbusy with hphase | hphase <;> simp [hphase]
  refine Bool.eq_false_iff.2 fun hirq => ?_
  obtain ⟨-, hdone | hphase⟩ := s.irq_iff.1 hirq
  · exact Bool.eq_false_iff.1 (h.done_eq_false hidle) hdone
  · exact hhalt hphase

/-- Settles O15: the flag relations of the invariant exclude both causes, and a sample is an access that is answered. -/
theorem interruptIsLowWhileBusy : Obligations.InterruptIsLowWhileBusy := by
  refine ⟨fun s hs hbusy => ?low, fun s rest hagenda => step_of_access hagenda rfl⟩
  obtain ⟨-, hflags, -⟩ := hs
  exact hflags.irq_eq_false hbusy

/-! What keeps the phase, the fault record and `PIX`. -/

/-- The phase, the fault record and `PIX` are as before. -/
def KeepsPhaseAndFault (s t : State) : Prop :=
  t.phase = s.phase ∧ t.ecode = s.ecode ∧ t.fpix = s.fpix ∧ t.faddr = s.faddr ∧ t.pix = s.pix

/-- What the host scripts and what it was answered are none of these fields. -/
theorem keepsPhaseAndFault_observed (s : State) (agenda : List Turn) (replies : List HostReply) :
    KeepsPhaseAndFault s { s with agenda := agenda, replies := replies } :=
  ⟨rfl, rfl, rfl, rfl, rfl⟩

/-- No write of a register but `CMD` reaches `STATUS`, `PIX`, `FPIX` or `FADDR` (R24, R30 to R32). -/
theorem State.regWrite_keepsPhaseAndFault (s : State) (n : Nat) (v : Word) : KeepsPhaseAndFault s (s.regWrite n v) := by
  rcases regWrite_cases s n v with h | ⟨-, h⟩ | ⟨-, ⟨-, h⟩ | ⟨-, h⟩ | ⟨-, h⟩ | ⟨-, h⟩ | ⟨-, h⟩⟩ <;> rw [h] <;>
    exact ⟨rfl, rfl, rfl, rfl, rfl⟩

/-- Every access of the host that is neither a command nor the hardware reset keeps them, in every phase. -/
theorem hostAccess_keepsPhaseAndFault {a : HostAccess} {s t : State} (ha : a ≠ .hardReset)
    (h : hostAccess a s = .next t) : KeepsPhaseAndFault s t := by
  cases a with
  | regRead | sampleIrq =>
    obtain rfl := Host.Outcome.next.inj h
    exact keepsPhaseAndFault_observed s s.agenda _
  | regWrite n v =>
    obtain rfl := Host.Outcome.next.inj h
    exact s.regWrite_keepsPhaseAndFault n v
  | bufRead =>
    obtain ⟨-, -, rfl⟩ := hostBuffer_next h
    exact keepsPhaseAndFault_observed s s.agenda _
  | bufWrite =>
    obtain ⟨-, -, rfl⟩ := hostBuffer_next h
    simp [KeepsPhaseAndFault]
  | hardReset => exact absurd rfl ha

/-! The ways out of `HALT` (R242). -/

/-- The step was `SRST` or the hardware reset: every register has its reset value, and the buffers are kept. -/
def ResetStep (s t : State) : Prop :=
  (∃ rest, s.agenda = .host (.regWrite 1 0x00000004#32) :: rest ∨ s.agenda = .host .hardReset :: rest)
    ∧ AtReset t ∧ KeepsMemory s t

theorem resetStep_of_srst {s t : State} {rest : List Turn} (hagenda : s.agenda = .host (.regWrite 1 0x00000004#32) :: rest)
    (hstep : step s = .next t) : ResetStep s t := by
  obtain ⟨hsrst, -⟩ := resetValuesOfEveryRegister
  obtain ⟨u, hexec, hreset, hmemory, -⟩ := hsrst { s with agenda := rest }
  obtain rfl := Host.Outcome.next.inj (hstep.symm.trans ((step_command hagenda rfl).trans hexec))
  exact ⟨⟨rest, .inl hagenda⟩, hreset, hmemory⟩

theorem resetStep_of_hardReset {s t : State} {rest : List Turn} (hagenda : s.agenda = .host .hardReset :: rest)
    (hstep : step s = .next t) : ResetStep s t := by
  obtain ⟨-, hhard, -⟩ := resetValuesOfEveryRegister
  obtain ⟨u, hnext, hreset, hmemory, -⟩ := hhard s rest hagenda
  obtain rfl := Host.Outcome.next.inj (hstep.symm.trans hnext)
  exact ⟨⟨rest, .inr hagenda⟩, hreset, hmemory⟩

/-- A word presented in `HALT` resets the machine or is dropped (R120). -/
theorem command_step_of_halt {s t : State} {v : Word} {rest : List Turn}
    (hagenda : s.agenda = .host (.regWrite 1 v) :: rest) (hphase : s.phase = .halt) (hstep : step s = .next t) :
    ResetStep s t ∨ KeepsPhaseAndFault s t := by
  by_cases hv : v = 0x00000004#32
  · subst hv
    exact .inl (resetStep_of_srst hagenda hstep)
  · have hdropped := step_command_dropped hagenda hv (by simp [hphase])
    obtain rfl := Host.Outcome.next.inj (hstep.symm.trans hdropped)
    exact .inr (keepsPhaseAndFault_observed s rest s.replies)

/-- A turn of the host in `HALT`: a command word, the hardware reset, or another access. -/
theorem host_step_of_halt {s t : State} {a : HostAccess} {rest : List Turn} (hagenda : s.agenda = .host a :: rest)
    (hphase : s.phase = .halt) (hstep : step s = .next t) : ResetStep s t ∨ KeepsPhaseAndFault s t := by
  have hother (hwork : hostWork a = .access a) (ha : a ≠ .hardReset) : KeepsPhaseAndFault s t :=
    hostAccess_keepsPhaseAndFault (s := { s with agenda := rest }) ha
      ((step_of_access hagenda hwork).symm.trans hstep)
  cases a with
  | regWrite n v =>
    by_cases hn : n = 1
    · subst hn
      exact command_step_of_halt hagenda hphase hstep
    · exact .inr (hother (if_neg hn) HostAccess.noConfusion)
  | hardReset => exact .inl (resetStep_of_hardReset hagenda hstep)
  | regRead | bufRead | bufWrite | sampleIrq => exact .inr (hother rfl HostAccess.noConfusion)

/-- A halted block has no step to take, so its turn changes nothing but the agenda (R127). -/
theorem block_step_of_halt {s t : State} (hturn : s.agenda = [] ∨ ∃ rest, s.agenda = .block :: rest)
    (hphase : s.phase = .halt) (hstep : step s = .next t) : KeepsPhaseAndFault s t := by
  obtain rfl := Host.Outcome.next.inj (hstep.symm.trans (step_of_rest hturn (.inr hphase)))
  exact keepsPhaseAndFault_observed s _ s.replies

/-- Every step from `HALT`, by whose turn it is. -/
theorem step_of_halt {s t : State} (hphase : s.phase = .halt) (hstep : step s = .next t) :
    ResetStep s t ∨ KeepsPhaseAndFault s t := by
  match hagenda : s.agenda with
  | [] => exact .inr (block_step_of_halt (.inl hagenda) hphase hstep)
  | .block :: rest => exact .inr (block_step_of_halt (.inr ⟨rest, hagenda⟩) hphase hstep)
  | .wait :: rest =>
    obtain rfl := Host.Outcome.next.inj (hstep.symm.trans (step_wait hagenda))
    exact .inr (keepsPhaseAndFault_observed ..)
  | .host a :: rest => exact host_step_of_halt hagenda hphase hstep

/-- Settles O44: a step that is no reset keeps the phase, which is `HALT`. -/
theorem onlyResetLeavesHalt : Obligations.OnlyResetLeavesHalt := fun _ _ hphase hstep =>
  (step_of_halt hphase hstep).imp_right fun ⟨hsame, hrecord⟩ => ⟨hsame.trans hphase, hrecord⟩

end Sys2Proof.Machine
end
